-- ==== Sys2Proof/Word.lean ====
section
/-! DEFINITION. The byte and the byte span (R7, R40): every quantity of this hardware is unsigned (R6). -/

namespace Sys2Proof

/-- One byte of the stream. Bit 0 is the least significant bit (R6). -/
abbrev Byte := BitVec 8

/-- A span of exactly `n` bytes; `p[0]` is the first byte received from the byte source (R7). -/
abbrev Span (n : Nat) := Vector Byte n

end Sys2Proof
end

