-- ==== Sys2Proof/Machine/Bitfield.lean ====
section
/-! DEFINITION. The big-endian bit-field unpacker (40_bitfield_extractor.md) and the `be` primitive (R8). -/

namespace Sys2Proof

/-- `be(b[0], b[1], b[2], b[3])` (R8). -/
def be32 (b : Span 4) : BitVec 32 := b[0] ++ b[1] ++ b[2] ++ b[3]

/-- `U16BE` (R91). -/
def u16be (b : Span 2) : BitVec 16 := (b[0].setWidth 16 <<< 8) ||| b[1].setWidth 16

/-- `U24BE` (R92). -/
def u24be (b : Span 3) : BitVec 24 :=
  (b[0].setWidth 24 <<< 16) ||| (b[1].setWidth 24 <<< 8) ||| b[2].setWidth 24

/-- A list of bytes as a span of exactly `n`: no other length is taken, longer ones included (R93, R104, R131). -/
def Span.ofList (n : Nat) (bs : List Byte) : Option (Span n) :=
  if h : bs.length = n then some ⟨bs.toArray, by simpa using h⟩ else none

/-- The low `8 n` bits of `w` as `n` bytes, most significant first (R47): how a word of the opcode table lies in
the stream. -/
def wordBytes : Nat → Nat → List Byte
  | 0, _ => []
  | n + 1, w => BitVec.ofNat 8 (w >>> (8 * n)) :: wordBytes n w

end Sys2Proof
end

