-- ==== Sys2Proof/Config.lean ====
section
/-! DEFINITION. The implementation parameters of 00_scope.md R5. `HDR_LAYOUT`, `MAGIC` and `RESERVED_POLICY` are
fields of the machine's configuration, so a statement about every state holds for every value of the three. -/

namespace Sys2Proof

/-- `HDR_LAYOUT` (R5, R62): where byte 0 of a header holds the last-block flag. -/
inductive HdrLayout
  /-- The flag in bit 0, the type code in bits 7:1: the value the spec fixes. -/
  | docLsbFlag
  /-- The flag in bit 7, the type code in bits 6:0: the alternative the spec gives in full. -/
  | flacMsbFlag
deriving DecidableEq, Repr

/-- `RESERVED_POLICY` (R5, D3): what a reserved or invalid type code does. The spec leaves it open. -/
inductive ReservedPolicy
  /-- The condition is a fatal failure. -/
  | abort
  /-- The block is skipped as opaque and yielded with a warning. -/
  | skip
deriving DecidableEq, Repr

/-- The configuration registers `CFG` and `MAGIC` (R27): static, written by no command. -/
structure Config where
  layout : HdrLayout
  policy : ReservedPolicy
  magic  : Span 4
deriving DecidableEq, Repr

namespace Config

/-- `HDR_LEN` (R5): bytes of a block header, and of the marker (R60). -/
def hdrLen : Nat := 4

/-- `SI_LEN` (R5): bytes of a STREAMINFO payload. -/
def siLen : Nat := 34

/-- The largest `block_length` (R5 `LEN_BITS` = 24, R64). -/
def maxLen : Nat := 16777215

/-- The length in bytes of the longest block (R61). -/
def maxBlock : Nat := hdrLen + maxLen

/-- The value of `HDR_LAYOUT` R5 fixes. -/
def specLayout : HdrLayout := .docLsbFlag

/-- The value of `MAGIC` R5 gives, ASCII "fLaC". PRESUMED (log 5): the spec marks it general knowledge. -/
def specMagic : Span 4 := #v[0x66, 0x4C, 0x61, 0x43]

/-- The configuration at power-on. R5 fixes the layout and gives the marker; DESIGN CHOICE (log 6):
R5 leaves the policy open, and `ABORT` (code 0 in `CFG`) stands here only because a state needs a value. -/
def atReset : Config := { layout := specLayout, policy := .abort, magic := specMagic }

end Config
end Sys2Proof
end

