-- ==== Sys2Proof/Machine/Formats.lean ====
section
/-! DEFINITION. The data the three function units produce and consume: type classes, headers, STREAMINFO fields,
records, and the names of the encoding formats (30_encoding.md, 41, 42, 43). -/

namespace Sys2Proof

/-- `tclass` (R66, R108): nine classes; `reserved` keeps the raw code, 7 to 126. -/
inductive TClass
  | streamInfo
  | padding
  | application
  | seekTable
  | vorbisComment
  | cuesheet
  | picture
  | reserved (code : BitVec 7)
  | invalid
deriving DecidableEq, Repr

/-- A decoded block header (R101). -/
structure BlockHeader where
  last   : Bool
  tcode  : BitVec 7
  tclass : TClass
  len    : BitVec 24
deriving DecidableEq, Repr

/-- The nine fields of a STREAMINFO payload as stored (R70), before the offset law. -/
structure SiRaw where
  minblk : BitVec 16
  maxblk : BitVec 16
  minfrm : BitVec 24
  maxfrm : BitVec 24
  rate   : BitVec 20
  chan   : BitVec 3
  bps    : BitVec 5
  total  : BitVec 36
  md5    : Span 16
deriving DecidableEq, Repr

/-- A `StreamInfoBlock` (R120), the registers `OUT.SI.*` of R24: true channel count and true bit depth. -/
structure StreamInfo where
  minblk   : BitVec 16
  maxblk   : BitVec 16
  minfrm   : BitVec 24
  maxfrm   : BitVec 24
  rate     : BitVec 20
  channels : BitVec 4
  bps      : BitVec 6
  total    : BitVec 36
  md5      : Span 16
deriving DecidableEq, Repr

/-- `OUT.KIND` (R24). -/
inductive RecKind
  | opaqueRec
  | streaminfoRec
deriving DecidableEq, Repr

/-- A yielded record, the register group `OUT` (R24). `si` is absent in an opaque record, never zeros. -/
structure Record where
  kind : RecKind
  hdr  : BlockHeader
  warn : Bool
  si   : Option StreamInfo
deriving DecidableEq, Repr

/-- The formats of 30_encoding.md that are read as a unit: the marker (R60), a header (R62), a STREAMINFO
payload (R70). Which one stands at the cursor is told by the command, not by the bits (log 11). -/
inductive Format
  | marker32
  | hdr32
  | si272
deriving DecidableEq, Repr

/-- Bytes of a format (R48). -/
def Format.size : Format → Nat
  | .marker32 => 4
  | .hdr32 => 4
  | .si272 => 34

/-- Why bytes are not an instruction: the one reason there is, since every header and every payload is
legal (R63, R71). -/
inductive DecodeError
  /-- A span whose length is not the format's (R93, R104, R131). -/
  | wrongLength (format : Format) (got : Nat)
deriving DecidableEq, Repr

/-- One row of the opcode map over the header word `W` (R68, R69, R75). -/
structure OpcodeRow where
  mnemonic : String
  mask     : BitVec 32
  pattern  : BitVec 32
deriving DecidableEq, Repr

/-- One item of the text notation for streams (R76). -/
inductive StreamItem
  | magic
  | block (last : Bool) (tcode : BitVec 7) (len : BitVec 24) (payload : List Byte)
  | raw (bytes : List Byte)
deriving DecidableEq, Repr

end Sys2Proof
end

