-- ==== Sys2Proof/Syntax.lean ====
section
/-! DEFINITION. The instructions: one constructor per mnemonic of spec/opcode_table.json (its rows of one mnemonic are
the two layouts, and for `BLK.RESERVED` the ten prefixes, of one arm: R68, R75). -/

namespace Sys2Proof

/-- An instruction of this hardware: a metadata block's header (R66, R75), the marker that `START` reads (R145), or
the STREAMINFO payload that `SI.DECODE` reads (R120). -/
inductive Instr
  /-- `BLK.STREAMINFO`: type code 0 with `len = 34` (R69, R148). -/
  | streaminfo (last : Bool)
  /-- `BLK.STREAMINFO.BADLEN`: type code 0 with any other `len` (R69, R148). -/
  | streaminfoBadlen (last : Bool) (len : BitVec 24)
  /-- `BLK.PADDING`: type code 1 (R149). -/
  | padding (last : Bool) (len : BitVec 24)
  /-- `BLK.APPLICATION`: type code 2 (R150). -/
  | application (last : Bool) (len : BitVec 24)
  /-- `BLK.SEEKTABLE`: type code 3 (R151). -/
  | seektable (last : Bool) (len : BitVec 24)
  /-- `BLK.VORBIS_COMMENT`: type code 4 (R152). -/
  | vorbisComment (last : Bool) (len : BitVec 24)
  /-- `BLK.CUESHEET`: type code 5 (R153). -/
  | cuesheet (last : Bool) (len : BitVec 24)
  /-- `BLK.PICTURE`: type code 6 (R154). -/
  | picture (last : Bool) (len : BitVec 24)
  /-- `BLK.RESERVED`: type codes 7 to 126 (R155). -/
  | reserved (last : Bool) (tcode : BitVec 7) (len : BitVec 24)
  /-- `BLK.INVALID`: type code 127 (R156). -/
  | invalid (last : Bool) (len : BitVec 24)
  /-- `MAGIC`: the four bytes read in the marker's place (R60, R145). -/
  | magic (marker : Span 4)
  /-- `SI.PAYLOAD`: the nine stored fields of a STREAMINFO payload (R70, R120). -/
  | siPayload (raw : SiRaw)
deriving DecidableEq, Repr

/-- The row's name in spec/opcode_table.json. -/
def Instr.mnemonic : Instr → String
  | .streaminfo _ => "BLK.STREAMINFO"
  | .streaminfoBadlen _ _ => "BLK.STREAMINFO.BADLEN"
  | .padding _ _ => "BLK.PADDING"
  | .application _ _ => "BLK.APPLICATION"
  | .seektable _ _ => "BLK.SEEKTABLE"
  | .vorbisComment _ _ => "BLK.VORBIS_COMMENT"
  | .cuesheet _ _ => "BLK.CUESHEET"
  | .picture _ _ => "BLK.PICTURE"
  | .reserved _ _ _ => "BLK.RESERVED"
  | .invalid _ _ => "BLK.INVALID"
  | .magic _ => "MAGIC"
  | .siPayload _ => "SI.PAYLOAD"

/-- The format an instruction is read in (R60, R62, R70). -/
def Instr.format : Instr → Format
  | .streaminfo _ => .hdr32
  | .streaminfoBadlen _ _ => .hdr32
  | .padding _ _ => .hdr32
  | .application _ _ => .hdr32
  | .seektable _ _ => .hdr32
  | .vorbisComment _ _ => .hdr32
  | .cuesheet _ _ => .hdr32
  | .picture _ _ => .hdr32
  | .reserved _ _ _ => .hdr32
  | .invalid _ _ => .hdr32
  | .magic _ => .marker32
  | .siPayload _ => .si272

end Sys2Proof
end

