-- ==== Sys2Proof/WellFormed.lean ====
section
/-! DEFINITION. Which instruction terms some word of the hardware stands for. -/

namespace Sys2Proof

/-- The two checks: `BLK.STREAMINFO.BADLEN` has a length other than 34 (R69, R75), and a reserved type code is 7 to
126 (R66, R108). Every other operand is legal at every value (R63, R71). -/
def Instr.wellFormed : Instr → Bool
  | .streaminfo _ => true
  | .streaminfoBadlen _ len => len != 34#24
  | .padding _ _ => true
  | .application _ _ => true
  | .seektable _ _ => true
  | .vorbisComment _ _ => true
  | .cuesheet _ _ => true
  | .picture _ _ => true
  | .reserved _ tcode _ => 7 ≤ tcode.toNat && tcode.toNat ≤ 126
  | .invalid _ _ => true
  | .magic _ => true
  | .siPayload _ => true

end Sys2Proof
end

