-- ==== Sys2Proof/Decode.lean ====
section
/-! DEFINITION. From bytes to instructions and back: `TYPE.CLASSIFY`, `HDR.DECODE` (41_header_decoder.md), the field
extraction of `SI.DECODE` (42_streaminfo_decoder.md), the decoder, the encoders, the opcode map as mask and pattern
rows (30_encoding.md R68), and the notation for streams (R76, R77). -/

namespace Sys2Proof

/-- `TYPE.CLASSIFY` (R102): a total case analysis over all 128 codes. -/
def typeClassify (tcode : BitVec 7) : TClass :=
  if tcode = 0#7 then .streamInfo
  else if tcode = 1#7 then .padding
  else if tcode = 2#7 then .application
  else if tcode = 3#7 then .seekTable
  else if tcode = 4#7 then .vorbisComment
  else if tcode = 5#7 then .cuesheet
  else if tcode = 6#7 then .picture
  else if tcode = 127#7 then .invalid
  else .reserved tcode

/-- The last-block flag of header byte 0 (R62). -/
def lastFlag (layout : HdrLayout) (h0 : Byte) : Bool :=
  match layout with
  | .docLsbFlag => h0.getLsbD 0
  | .flacMsbFlag => h0.getLsbD 7

/-- The type code of header byte 0 (R62). -/
def typeCode (layout : HdrLayout) (h0 : Byte) : BitVec 7 :=
  match layout with
  | .docLsbFlag => h0.extractLsb' 1 7
  | .flacMsbFlag => h0.extractLsb' 0 7

/-- `HDR.DECODE` (R101). -/
def hdrDecode (layout : HdrLayout) (h : Span 4) : BlockHeader :=
  { last := lastFlag layout h[0]
    tcode := typeCode layout h[0]
    tclass := typeClassify (typeCode layout h[0])
    len := u24be #v[h[1], h[2], h[3]] }

/-- `SI.RATE` (R125): the top 20 of the 24 bits of bytes 10 to 12. -/
def siRate (p : Span 34) : BitVec 20 := (u24be #v[p[10], p[11], p[12]] >>> 4).setWidth 20

/-- The stored channel field (R126): bits 3:1 of byte 12. -/
def siChanRaw (p : Span 34) : BitVec 3 := p[12].extractLsb' 1 3

/-- The stored depth field (R127): bit 0 of byte 12 above the high nibble of byte 13. -/
def siBpsRaw (p : Span 34) : BitVec 5 := p[12].extractLsb' 0 1 ++ p[13].extractLsb' 4 4

/-- `SI.TOTAL` (R128): the low nibble of byte 13 above bytes 14 to 17. -/
def siTotal (p : Span 34) : BitVec 36 := p[13].extractLsb' 0 4 ++ p[14] ++ p[15] ++ p[16] ++ p[17]

/-- `SI.MD5` (R129): bytes 18 to 33, verbatim. -/
def siMd5 (p : Span 34) : Span 16 := Vector.ofFn fun i : Fin 16 => p[18 + i.val]

/-- The nine stored fields of a STREAMINFO payload (R70). -/
def siExtract (p : Span 34) : SiRaw :=
  { minblk := u16be #v[p[0], p[1]]
    maxblk := u16be #v[p[2], p[3]]
    minfrm := u24be #v[p[4], p[5], p[6]]
    maxfrm := u24be #v[p[7], p[8], p[9]]
    rate := siRate p
    chan := siChanRaw p
    bps := siBpsRaw p
    total := siTotal p
    md5 := siMd5 p }

/-- The arm a decoded header selects (R75): by class, and for STREAMINFO by length; the last flag takes no part. -/
def instrOfHeader (h : BlockHeader) : Instr :=
  match h.tclass with
  | .streamInfo => if h.len = 34#24 then .streaminfo h.last else .streaminfoBadlen h.last h.len
  | .padding => .padding h.last h.len
  | .application => .application h.last h.len
  | .seekTable => .seektable h.last h.len
  | .vorbisComment => .vorbisComment h.last h.len
  | .cuesheet => .cuesheet h.last h.len
  | .picture => .picture h.last h.len
  | .reserved c => .reserved h.last c h.len
  | .invalid => .invalid h.last h.len

/-- The four bytes `START` reads (R145). -/
def decodeMarker (m : Span 4) : Instr := .magic m

/-- The block header `STEP` reads (R75). -/
def decodeHeader (layout : HdrLayout) (h : Span 4) : Instr := instrOfHeader (hdrDecode layout h)

/-- The payload `SI.DECODE` reads (R70). -/
def decodePayload (p : Span 34) : Instr := .siPayload (siExtract p)

/-- The decoder on any list of bytes: total, and a wrong length is rejected by name. -/
def decode (layout : HdrLayout) (format : Format) (bs : List Byte) : Except DecodeError Instr :=
  match format with
  | .marker32 =>
    match Span.ofList 4 bs with
    | some m => .ok (decodeMarker m)
    | none => .error (.wrongLength .marker32 bs.length)
  | .hdr32 =>
    match Span.ofList 4 bs with
    | some h => .ok (decodeHeader layout h)
    | none => .error (.wrongLength .hdr32 bs.length)
  | .si272 =>
    match Span.ofList 34 bs with
    | some p => .ok (decodePayload p)
    | none => .error (.wrongLength .si272 bs.length)

/-- The number the opcode table gives the marker row. -/
def markerWord : Nat := (be32 Config.specMagic).toNat

/-- The format in which a word of the opcode table is read when no command says which: 272 bits are a payload, the
marker's own word is the marker, any other 32 bits are a header (log 11). -/
def tableFormat (nbits w : Nat) : Option Format :=
  if nbits = 272 then some .si272
  else if nbits = 32 then (if w = markerWord then some .marker32 else some .hdr32)
  else none

/-- The instruction the decoder reads from a word of the opcode table, under the layout R5 fixes (log 12). -/
def decodeTableWord (nbits w : Nat) : Option Instr :=
  match tableFormat nbits w with
  | some f => (decode Config.specLayout f (wordBytes f.size w)).toOption
  | none => none

/-! ## Encoders -/

/-- `HDR.ENCODE` (R106). -/
def hdrEncode (layout : HdrLayout) (last : Bool) (tcode : BitVec 7) (len : BitVec 24) : Span 4 :=
  let h0 : Byte :=
    match layout with
    | .docLsbFlag => tcode ++ BitVec.ofBool last
    | .flacMsbFlag => BitVec.ofBool last ++ tcode
  #v[h0, len.extractLsb' 16 8, len.extractLsb' 8 8, len.extractLsb' 0 8]

/-- The payload bytes of nine stored fields (R70, R135). -/
def siPack (r : SiRaw) : Span 34 :=
  #v[r.minblk.extractLsb' 8 8, r.minblk.extractLsb' 0 8,
    r.maxblk.extractLsb' 8 8, r.maxblk.extractLsb' 0 8,
    r.minfrm.extractLsb' 16 8, r.minfrm.extractLsb' 8 8, r.minfrm.extractLsb' 0 8,
    r.maxfrm.extractLsb' 16 8, r.maxfrm.extractLsb' 8 8, r.maxfrm.extractLsb' 0 8,
    r.rate.extractLsb' 12 8, r.rate.extractLsb' 4 8,
    r.rate.extractLsb' 0 4 ++ r.chan ++ r.bps.extractLsb' 4 1,
    r.bps.extractLsb' 0 4 ++ r.total.extractLsb' 32 4,
    r.total.extractLsb' 24 8, r.total.extractLsb' 16 8, r.total.extractLsb' 8 8, r.total.extractLsb' 0 8,
    r.md5[0], r.md5[1], r.md5[2], r.md5[3], r.md5[4], r.md5[5], r.md5[6], r.md5[7],
    r.md5[8], r.md5[9], r.md5[10], r.md5[11], r.md5[12], r.md5[13], r.md5[14], r.md5[15]]

/-- The header fields of a block instruction; the marker and the payload have none. -/
def Instr.header : Instr → Option BlockHeader
  | .streaminfo last => some { last := last, tcode := 0#7, tclass := .streamInfo, len := 34#24 }
  | .streaminfoBadlen last len => some { last := last, tcode := 0#7, tclass := .streamInfo, len := len }
  | .padding last len => some { last := last, tcode := 1#7, tclass := .padding, len := len }
  | .application last len => some { last := last, tcode := 2#7, tclass := .application, len := len }
  | .seektable last len => some { last := last, tcode := 3#7, tclass := .seekTable, len := len }
  | .vorbisComment last len => some { last := last, tcode := 4#7, tclass := .vorbisComment, len := len }
  | .cuesheet last len => some { last := last, tcode := 5#7, tclass := .cuesheet, len := len }
  | .picture last len => some { last := last, tcode := 6#7, tclass := .picture, len := len }
  | .reserved last tcode len => some { last := last, tcode := tcode, tclass := .reserved tcode, len := len }
  | .invalid last len => some { last := last, tcode := 127#7, tclass := .invalid, len := len }
  | .magic _ => none
  | .siPayload _ => none

/-- The bytes of an instruction: its header (the payload of a block is data, not part of the instruction), the
marker, or the 34 payload bytes. -/
def encode (layout : HdrLayout) : Instr → List Byte
  | .streaminfo last => (hdrEncode layout last 0#7 34#24).toList
  | .streaminfoBadlen last len => (hdrEncode layout last 0#7 len).toList
  | .padding last len => (hdrEncode layout last 1#7 len).toList
  | .application last len => (hdrEncode layout last 2#7 len).toList
  | .seektable last len => (hdrEncode layout last 3#7 len).toList
  | .vorbisComment last len => (hdrEncode layout last 4#7 len).toList
  | .cuesheet last len => (hdrEncode layout last 5#7 len).toList
  | .picture last len => (hdrEncode layout last 6#7 len).toList
  | .reserved last tcode len => (hdrEncode layout last tcode len).toList
  | .invalid last len => (hdrEncode layout last 127#7 len).toList
  | .magic m => m.toList
  | .siPayload raw => (siPack raw).toList

/-! ## The opcode map (R68, R69, R75) -/

/-- The rows of layout `DOC_LSB_FLAG`, in the table's order: `BLK.STREAMINFO` before its fallback (priority 1, 2). -/
def docRows : List OpcodeRow :=
  [⟨"BLK.STREAMINFO", 0xFEFFFFFF, 0x00000022⟩,
   ⟨"BLK.STREAMINFO.BADLEN", 0xFE000000, 0x00000000⟩,
   ⟨"BLK.PADDING", 0xFE000000, 0x02000000⟩,
   ⟨"BLK.APPLICATION", 0xFE000000, 0x04000000⟩,
   ⟨"BLK.SEEKTABLE", 0xFE000000, 0x06000000⟩,
   ⟨"BLK.VORBIS_COMMENT", 0xFE000000, 0x08000000⟩,
   ⟨"BLK.CUESHEET", 0xFE000000, 0x0A000000⟩,
   ⟨"BLK.PICTURE", 0xFE000000, 0x0C000000⟩] ++
  [⟨"BLK.RESERVED", 0xFE000000, 0x0E000000⟩,
   ⟨"BLK.RESERVED", 0xF0000000, 0x10000000⟩,
   ⟨"BLK.RESERVED", 0xE0000000, 0x20000000⟩,
   ⟨"BLK.RESERVED", 0xC0000000, 0x40000000⟩,
   ⟨"BLK.RESERVED", 0xC0000000, 0x80000000⟩,
   ⟨"BLK.RESERVED", 0xE0000000, 0xC0000000⟩,
   ⟨"BLK.RESERVED", 0xF0000000, 0xE0000000⟩,
   ⟨"BLK.RESERVED", 0xF8000000, 0xF0000000⟩,
   ⟨"BLK.RESERVED", 0xFC000000, 0xF8000000⟩,
   ⟨"BLK.RESERVED", 0xFE000000, 0xFC000000⟩,
   ⟨"BLK.INVALID", 0xFE000000, 0xFE000000⟩]

/-- The rows of layout `FLAC_MSB_FLAG`. -/
def flacRows : List OpcodeRow :=
  [⟨"BLK.STREAMINFO", 0x7FFFFFFF, 0x00000022⟩,
   ⟨"BLK.STREAMINFO.BADLEN", 0x7F000000, 0x00000000⟩,
   ⟨"BLK.PADDING", 0x7F000000, 0x01000000⟩,
   ⟨"BLK.APPLICATION", 0x7F000000, 0x02000000⟩,
   ⟨"BLK.SEEKTABLE", 0x7F000000, 0x03000000⟩,
   ⟨"BLK.VORBIS_COMMENT", 0x7F000000, 0x04000000⟩,
   ⟨"BLK.CUESHEET", 0x7F000000, 0x05000000⟩,
   ⟨"BLK.PICTURE", 0x7F000000, 0x06000000⟩] ++
  [⟨"BLK.RESERVED", 0x7F000000, 0x07000000⟩,
   ⟨"BLK.RESERVED", 0x78000000, 0x08000000⟩,
   ⟨"BLK.RESERVED", 0x70000000, 0x10000000⟩,
   ⟨"BLK.RESERVED", 0x60000000, 0x20000000⟩,
   ⟨"BLK.RESERVED", 0x60000000, 0x40000000⟩,
   ⟨"BLK.RESERVED", 0x70000000, 0x60000000⟩,
   ⟨"BLK.RESERVED", 0x78000000, 0x70000000⟩,
   ⟨"BLK.RESERVED", 0x7C000000, 0x78000000⟩,
   ⟨"BLK.RESERVED", 0x7E000000, 0x7C000000⟩,
   ⟨"BLK.RESERVED", 0x7F000000, 0x7E000000⟩,
   ⟨"BLK.INVALID", 0x7F000000, 0x7F000000⟩]

/-- The header rows of the layout in force. -/
def headerRows : HdrLayout → List OpcodeRow
  | .docLsbFlag => docRows
  | .flacMsbFlag => flacRows

/-- The first row a header word matches. -/
def rowOf (layout : HdrLayout) (w : BitVec 32) : Option OpcodeRow :=
  (headerRows layout).find? fun r => w &&& r.mask == r.pattern

/-! ## The notation for streams (R76) -/

/-- The bytes of one item; the payload is emitted as given, whatever `len` says. -/
def StreamItem.bytes (cfg : Config) : StreamItem → List Byte
  | .magic => cfg.magic.toList
  | .block last tcode len payload => (hdrEncode cfg.layout last tcode len).toList ++ payload
  | .raw bs => bs

/-- The stream a program of the notation stands for. -/
def assemble (cfg : Config) (items : List StreamItem) : List Byte := items.flatMap (StreamItem.bytes cfg)

end Sys2Proof
end

