-- ==== Sys2Proof/Machine/State.lean ====
section
/-! DEFINITION. The architectural state (10_state.md R20) as plain data, with what surrounds it at its three ports: the
configuration, the byte source, the caller's transactions and the answer last delivered. -/

namespace Sys2Proof.Machine

/-- `ST` (R21). -/
inductive SeqState
  | init
  | scanning
  | done
deriving DecidableEq, Repr

/-- The four failure kinds (R170). -/
inductive FailKind
  | notAContainer
  | truncatedRead
  | reservedOrInvalidBlockType
  | payloadLengthMismatch
deriving DecidableEq, Repr

/-- `ERR` (R22): a failure kind, or `NONE`. -/
inductive Err
  | none
  | failed (kind : FailKind)
deriving DecidableEq, Repr

/-- A direct application of a function unit (R9, R90, R100, R120), its operand given as a list of bytes
(R93, R104, R131); `TYPE.CLASSIFY` takes a 7-bit code (R102). -/
inductive UnitCall
  | u16be (span : List Byte)
  | u24be (span : List Byte)
  | hdrDecode (span : List Byte)
  | typeClassify (tcode : BitVec 7)
  | siDecode (span : List Byte)
deriving DecidableEq, Repr

/-- What a function unit hands back to whoever applied it. -/
inductive UnitResult
  | u16 (value : BitVec 16)
  | u24 (value : BitVec 24)
  | header (hdr : BlockHeader)
  | tclass (cls : TClass)
  | streamInfo (si : StreamInfo)
  /-- `SI.DECODE` on a length other than 34 (R131); the unit writes no state (R120). -/
  | failed (kind : FailKind)
deriving DecidableEq, Repr

/-- One transaction the caller presents (R27, R140): a command of the sequencer, or a function unit's operand. -/
inductive Request
  | reset
  | start
  | step
  | unit (call : UnitCall)
deriving DecidableEq, Repr

/-- What the core answers on the result port: the outcomes of R142, or a function unit's result. -/
inductive Response
  | resetDone
  | started
  | yielded (rec : Record)
  | ended
  | failed (kind : FailKind) (info : BitVec 32)
  | refused
  | unit (result : UnitResult)
deriving DecidableEq, Repr

/-- The stream `S[0], ..., S[L-1]` (R40, R41): `size` is `L`, and `cells` lists the bytes that are not zero, addresses
rising. An address from `size` on does not exist. -/
structure Memory where
  cells : List Host.Cell
  size  : Nat
deriving DecidableEq, Repr

/-- The registers a caller can read (R27). The spec numbers the first five; the `OUT.*` registers follow from 5 up. -/
inductive Reg
  | status
  | einfo
  | cfg
  | magic
  | pos
  | outKind
  | outHLast
  | outHTcode
  | outHTclass
  | outHLen
  | outWarn
  | outSiMinblk
  | outSiMaxblk
  | outSiMinfrm
  | outSiMaxfrm
  | outSiRate
  | outSiChannels
  | outSiBps
  | outSiTotal
  | outSiMd5 (i : Fin 16)
deriving DecidableEq, Repr

/-- What a register read shows: a bit field of a width, the unbounded cursor (R23), or a type class. -/
inductive RegValue
  | field (width value : Nat)
  | unbounded (value : Nat)
  | cls (c : TClass)
deriving DecidableEq, Repr

/-- The machine. -/
structure State where
  /-- `ST` (R21). -/
  st    : SeqState
  /-- `ERR` (R22). -/
  err   : Err
  /-- `EINFO` (R20, R171). -/
  einfo : BitVec 32
  /-- `POS` (R23). -/
  pos   : Nat
  /-- `OUT` (R24). -/
  out   : Option Record
  /-- `CFG` and `MAGIC` (R27): static. -/
  cfg   : Config
  /-- The stream behind the source port (R41, R43): immutable during a run. -/
  mem   : Memory
  /-- The command port: the transactions the caller is going to present, the next one first (log 1). It is the
  caller's script, not a queue of the hardware (R215). -/
  reqs  : List Request
  /-- The result port: the answer to the last transaction (log 2). -/
  resp  : Option Response
deriving DecidableEq, Repr

/-- Why the machine stops with a fault: there is no reason. All four failures the spec describes are taken as next states
(R176), and a read that finds no byte is one of them (R178), so no constructor is needed (log 20). -/
inductive Fault
deriving DecidableEq, Repr

/-- Why a transaction has no meaning. -/
inductive Refusal
  /-- Raised by an arm of `exec` that has no meaning yet: there is none. Safe. -/
  | notModelled (mnemonic : String)
  /-- Raised by a direct application of `U16BE`, `U24BE` or `HDR.DECODE` to a list of the wrong length: the caller's
  error, "not a step of the machine" (R93, R104, R173, U4). Safe. -/
  | preconditionViolation
deriving DecidableEq, Repr

/-- The machine after power-on (R31, R200): nothing read, nothing recorded, nothing exposed. DESIGN CHOICE (logs 1, 2, 3,
6): an empty stream, a caller that presents nothing, an empty result port, and the policy of `Config.atReset`. -/
def State.reset : State :=
  { st := .init
    err := .none
    einfo := 0#32
    pos := 0
    out := none
    cfg := Config.atReset
    mem := { cells := [], size := 0 }
    reqs := []
    resp := none }

/-- The three outcomes of a meaning on this machine. -/
abbrev Result := Host.Outcome State Fault Refusal

end Sys2Proof.Machine
end

