-- ==== Sys2Proof/Machine/Flags.lean ====
section
/-! DEFINITION. The one-bit values of the hardware (R26) and the numeric codes of its enumerations (R21, R22, R24, R27). There
are no condition codes. -/

namespace Sys2Proof.Machine

/-- The encoding of `ST` (R21). -/
def SeqState.code : SeqState → BitVec 2
  | .init => 0
  | .scanning => 1
  | .done => 2

/-- The code of a failure kind (R22, R171). -/
def FailKind.code : FailKind → BitVec 3
  | .notAContainer => 1
  | .truncatedRead => 2
  | .reservedOrInvalidBlockType => 3
  | .payloadLengthMismatch => 4

/-- The encoding of `ERR` (R22). -/
def Err.code : Err → BitVec 3
  | .none => 0
  | .failed k => k.code

/-- The encoding of `OUT.KIND` (R24). -/
def recKindCode : RecKind → BitVec 1
  | .opaqueRec => 0
  | .streaminfoRec => 1

/-- The "failed" flag (R26): `ERR != NONE`. -/
def State.failed (s : State) : Bool := s.err != .none

/-- `OUT_VALID` (R27): 1 iff `OUT` is not `none`. -/
def State.outValid (s : State) : Bool := s.out.isSome

/-- What the last-block flag does to `ST` once a record has been yielded (R157). -/
def afterYield (last : Bool) (st : SeqState) : SeqState := if last then .done else st

/-- `STATUS` (R27): bits 1:0 `ST`, 4:2 `ERR`, 5 `OUT_VALID`, the rest zero. -/
def State.statusWord (s : State) : BitVec 32 :=
  0#26 ++ BitVec.ofBool s.outValid ++ s.err.code ++ s.st.code

/-- `CFG` (R27): bit 0 `HDR_LAYOUT`, bit 1 `RESERVED_POLICY`, the rest zero. -/
def cfgWord (c : Config) : BitVec 32 :=
  0#30 ++ BitVec.ofBool (c.policy == .skip) ++ BitVec.ofBool (c.layout == .flacMsbFlag)

end Sys2Proof.Machine
end

