-- ==== Sys2Proof/Machine/Ops.lean ====
section
/-! DEFINITION. The shared operations: the stream and `MemRead` (20_memory.md), failure entry (R176), the return from it that
is `RESET` (R144, R181), and the two procedures of the block arms (R163). -/

namespace Sys2Proof.Machine

/-! ## The stream -/

/-- What an unlisted address below `size` reads as: zero. The list holds the other bytes, so every stream has exactly one
form (log 3). -/
def Memory.fill : Byte := 0#8

/-- The canonical form: addresses strictly rising, no listed zero, nothing listed from `size` on. -/
abbrev Memory.wf (m : Memory) : Prop :=
  m.cells.Pairwise (fun c d => c.1 < d.1) ∧ ∀ c ∈ m.cells, c.2 ≠ Memory.fill ∧ c.1 < m.size

/-- The value listed for an address. -/
def lookupCell : List Host.Cell → Nat → Byte
  | [], _ => Memory.fill
  | (c, v) :: t, a => if a = c then v else lookupCell t a

/-- `S[a]`, for an address below `size`. -/
def Memory.byte (m : Memory) (a : Nat) : Byte := lookupCell m.cells a

/-- The read of one byte: no value at an address that does not exist (R40). -/
def Memory.read (m : Memory) (a : Nat) : Option Byte := if a < m.size then some (m.byte a) else none

/-- The `n` bytes from address `a` on. -/
def Memory.span (m : Memory) (a n : Nat) : Span n := Vector.ofFn fun i : Fin n => m.byte (a + i.val)

/-- `MemRead(POS, n)` (R43, R57): all or nothing; `POS` moves only on success. `none` is `Fail`. -/
def memRead (s : State) (n : Nat) : Option (Span n × State) :=
  if n = 0 ∨ s.pos + n ≤ s.mem.size then some (s.mem.span s.pos n, { s with pos := s.pos + n }) else none

/-! ## Building a stream: what the caller does before a run (R201); no instruction writes (R46) -/

/-- A cell list with the value of one address replaced, in canonical form. -/
def insertCell : List Host.Cell → Nat → Byte → List Host.Cell
  | [], a, b => if b = Memory.fill then [] else [(a, b)]
  | (c, v) :: t, a, b =>
    if a < c then (if b = Memory.fill then (c, v) :: t else (a, b) :: (c, v) :: t)
    else if a = c then (if b = Memory.fill then t else (a, b) :: t)
    else (c, v) :: insertCell t a b

/-- The stream with byte `a` set, lengthened to hold it. -/
def Memory.set (m : Memory) (a : Nat) (b : Byte) : Memory :=
  { cells := insertCell m.cells a b, size := max m.size (a + 1) }

/-- The stream with bytes laid from address `a` on. -/
def Memory.load (m : Memory) (a : Nat) : List Byte → Memory
  | [] => m
  | b :: bs => (m.set a b).load (a + 1) bs

/-- The stream with `n` zero bytes from address `a` on, lengthened to hold them. -/
def Memory.zero (m : Memory) (a n : Nat) : Memory :=
  { cells := m.cells.filter fun c => c.1 < a || a + n ≤ c.1, size := max m.size (a + n) }

/-- The stream that is exactly a list of bytes. -/
def Memory.ofBytes (bs : List Byte) : Memory := Memory.load { cells := [], size := 0 } 0 bs

/-! ## Answers, failures, records -/

/-- Deliver an answer on the result port; nothing else changes. -/
def State.respond (s : State) (r : Response) : State := { s with resp := some r }

/-- `raise K(info)` (R176): the failure entry. `POS` keeps what the successful reads gave it. -/
def State.raise (s : State) (k : FailKind) (info : BitVec 32) : State :=
  { s with st := .done, err := .failed k, einfo := info, out := none, resp := some (.failed k info) }

/-- The end of a `STEP` that decoded a block (R146, R157): `OUT` replaced whole, then the last flag, then the yield. -/
def State.yieldRec (s : State) (r : Record) : State :=
  { s with out := some r, st := afterYield r.hdr.last s.st, resp := some (.yielded r) }

/-- `RESET` (R144): the only way out of a failure (R181). The configuration and the stream are not touched (R200). -/
def State.doReset (s : State) : State :=
  { s with st := .init, err := .none, einfo := 0#32, pos := 0, out := none, resp := some .resetDone }

/-- `RECORD(kind, hdr, warn, si)` (R163). -/
def record (kind : RecKind) (hdr : BlockHeader) (warn : Bool) (si : Option StreamInfo) : Record :=
  { kind := kind, hdr := hdr, warn := warn, si := si }

/-- The header word `W` of a header (R62): the four bytes that decode to it (log 13). -/
def hdrWord (layout : HdrLayout) (hdr : BlockHeader) : BitVec 32 :=
  be32 (hdrEncode layout hdr.last hdr.tcode hdr.len)

/-- The count recorded with a truncated read (R171): `zext_32(n)`. -/
def countInfo (n : Nat) : BitVec 32 := BitVec.ofNat 32 n

/-- `OPAQUE(hdr, warn)` (R163): read and discard `len` bytes (R44), then yield the header only. -/
def opaqueBlock (hdr : BlockHeader) (warn : Bool) (s : State) : Result :=
  match memRead s hdr.len.toNat with
  | none => .next (s.raise .truncatedRead (countInfo hdr.len.toNat))
  | some (_, s1) => .next (s1.yieldRec (record .opaqueRec hdr warn none))

end Sys2Proof.Machine
end

