-- ==== Sys2Proof/Machine/Operands.lean ====
section
/-! DEFINITION. Operand assembly (R72): the offset law of the two STREAMINFO fields that are stored minus one, the nine
results of `SI.DECODE`, the headers of the block arms, and the caller's view of the registers (R27). -/

namespace Sys2Proof

/-- `SI.CHAN` (R126): the true count, in 4 bits so that 8 fits (R132). -/
def channelsOfRaw (v : BitVec 3) : BitVec 4 := v.setWidth 4 + 1#4

/-- `SI.BPS` (R127): the true depth, in 6 bits so that 32 fits (R132). -/
def bpsOfRaw (v : BitVec 5) : BitVec 6 := v.setWidth 6 + 1#6

/-- The nine outputs of `SI.DECODE` from the stored fields (R72). -/
def siAssemble (r : SiRaw) : StreamInfo :=
  { minblk := r.minblk
    maxblk := r.maxblk
    minfrm := r.minfrm
    maxfrm := r.maxfrm
    rate := r.rate
    channels := channelsOfRaw r.chan
    bps := bpsOfRaw r.bps
    total := r.total
    md5 := r.md5 }

/-- `SI.DECODE` (R120). -/
def siDecode (p : Span 34) : StreamInfo := siAssemble (siExtract p)

/-- The stored fields of nine outputs (R135): `channels - 1` and `bps - 1`, low bits. -/
def siStore (x : StreamInfo) : SiRaw :=
  { minblk := x.minblk
    maxblk := x.maxblk
    minfrm := x.minfrm
    maxfrm := x.maxfrm
    rate := x.rate
    chan := (x.channels - 1#4).setWidth 3
    bps := (x.bps - 1#6).setWidth 5
    total := x.total
    md5 := x.md5 }

/-- `SI.ENCODE` (R135); the pseudo-form `SI(...)` of the notation (R77). -/
def siEncode (x : StreamInfo) : Span 34 := siPack (siStore x)

namespace Machine

/-- The `hdr` operand of an arm with a fixed type code (R148 to R154, R156). -/
def blockHdr (last : Bool) (tcode : BitVec 7) (tclass : TClass) (len : BitVec 24) : BlockHeader :=
  { last := last, tcode := tcode, tclass := tclass, len := len }

/-- A bit field as a register read shows it. -/
def regField {n : Nat} (v : BitVec n) : RegValue := .field n v.toNat

/-- A field of the record in `OUT`, if there is a record (R25). -/
def outField (s : State) (f : Record → RegValue) : Option RegValue := s.out.map f

/-- A field of the STREAMINFO part of `OUT`, if the record has one (R24, R214). -/
def outSi (s : State) (f : StreamInfo → RegValue) : Option RegValue :=
  match s.out with
  | some r => r.si.map f
  | none => none

/-- The caller's read of a register between commands (R27, R160): no side effect, and no value where the register holds
none (R25, U10). -/
def readReg (s : State) : Reg → Option RegValue
  | .status => some (regField s.statusWord)
  | .einfo => some (regField s.einfo)
  | .cfg => some (regField (cfgWord s.cfg))
  | .magic => some (regField (be32 s.cfg.magic))
  | .pos => some (.unbounded s.pos)
  | .outKind => outField s fun r => regField (recKindCode r.kind)
  | .outHLast => outField s fun r => regField (BitVec.ofBool r.hdr.last)
  | .outHTcode => outField s fun r => regField r.hdr.tcode
  | .outHTclass => outField s fun r => .cls r.hdr.tclass
  | .outHLen => outField s fun r => regField r.hdr.len
  | .outWarn => outField s fun r => regField (BitVec.ofBool r.warn)
  | .outSiMinblk => outSi s fun x => regField x.minblk
  | .outSiMaxblk => outSi s fun x => regField x.maxblk
  | .outSiMinfrm => outSi s fun x => regField x.minfrm
  | .outSiMaxfrm => outSi s fun x => regField x.maxfrm
  | .outSiRate => outSi s fun x => regField x.rate
  | .outSiChannels => outSi s fun x => regField x.channels
  | .outSiBps => outSi s fun x => regField x.bps
  | .outSiTotal => outSi s fun x => regField x.total
  | .outSiMd5 i => outSi s fun x => regField x.md5[i]

/-- The `REG#` of the registers the spec numbers one by one (R27). -/
def Reg.number : Reg → Option Nat
  | .status => some 0
  | .einfo => some 1
  | .cfg => some 2
  | .magic => some 3
  | .pos => some 4
  | _ => none

end Machine
end Sys2Proof
end

