-- ==== Sys2Proof/Machine/Marker.lean ====
section
/-! DEFINITION. The marker: what `START` does with the four bytes it has read (R145). -/

namespace Sys2Proof.Machine

/-- `MAGIC` (R145): equal to the configured marker in all four bytes, or `NotAContainer`. -/
def execMagic (marker : Span 4) (s : State) : Result :=
  if marker = s.cfg.magic then .next { s with st := .scanning, resp := some .started }
  else .next (s.raise .notAContainer (be32 marker))

end Sys2Proof.Machine
end

