-- ==== Sys2Proof/Machine/OpaqueBlocks.lean ====
section
/-! DEFINITION. The six opaque arms (R149 to R154): each skips its payload and yields its header. -/

namespace Sys2Proof.Machine

/-- `BLK.PADDING` (R149). -/
def execPadding (last : Bool) (len : BitVec 24) (s : State) : Result :=
  opaqueBlock (blockHdr last 1#7 .padding len) false s

/-- `BLK.APPLICATION` (R150). -/
def execApplication (last : Bool) (len : BitVec 24) (s : State) : Result :=
  opaqueBlock (blockHdr last 2#7 .application len) false s

/-- `BLK.SEEKTABLE` (R151). -/
def execSeektable (last : Bool) (len : BitVec 24) (s : State) : Result :=
  opaqueBlock (blockHdr last 3#7 .seekTable len) false s

/-- `BLK.VORBIS_COMMENT` (R152). -/
def execVorbisComment (last : Bool) (len : BitVec 24) (s : State) : Result :=
  opaqueBlock (blockHdr last 4#7 .vorbisComment len) false s

/-- `BLK.CUESHEET` (R153). -/
def execCuesheet (last : Bool) (len : BitVec 24) (s : State) : Result :=
  opaqueBlock (blockHdr last 5#7 .cuesheet len) false s

/-- `BLK.PICTURE` (R154). -/
def execPicture (last : Bool) (len : BitVec 24) (s : State) : Result :=
  opaqueBlock (blockHdr last 6#7 .picture len) false s

end Sys2Proof.Machine
end

