-- ==== Sys2Proof/Machine/ReservedBlocks.lean ====
section
/-! DEFINITION. The reserved and invalid arms (R155, R156): a failure under `ABORT`, an opaque block with a warning under
`SKIP` (R179, R190). -/

namespace Sys2Proof.Machine

/-- What both arms share: the policy decides before any payload byte is read. -/
def unsupportedBlock (hdr : BlockHeader) (s : State) : Result :=
  match s.cfg.policy with
  | .abort => .next (s.raise .reservedOrInvalidBlockType (hdrWord s.cfg.layout hdr))
  | .skip => opaqueBlock hdr true s

/-- `BLK.RESERVED` (R155). -/
def execReserved (last : Bool) (tcode : BitVec 7) (len : BitVec 24) (s : State) : Result :=
  unsupportedBlock (blockHdr last tcode (.reserved tcode) len) s

/-- `BLK.INVALID` (R156). -/
def execInvalid (last : Bool) (len : BitVec 24) (s : State) : Result :=
  unsupportedBlock (blockHdr last 127#7 .invalid len) s

end Sys2Proof.Machine
end

