-- ==== Sys2Proof/Machine/StreamInfoBlocks.lean ====
section
/-! DEFINITION. The STREAMINFO arm, its length failure (R148), and the payload decoder applied by itself (R120). -/

namespace Sys2Proof.Machine

/-- `BLK.STREAMINFO` with `len = 34` (R148): read the payload, decode it, yield the record. -/
def execStreaminfo (last : Bool) (s : State) : Result :=
  match memRead s 34 with
  | none => .next (s.raise .truncatedRead (countInfo 34))
  | some (p, s1) =>
    .next (s1.yieldRec (record .streaminfoRec (blockHdr last 0#7 .streamInfo 34#24) false (some (siDecode p))))

/-- `BLK.STREAMINFO` with any other length (R148, R180): the mismatch, before any payload byte is read. -/
def execStreaminfoBadlen (last : Bool) (len : BitVec 24) (s : State) : Result :=
  .next (s.raise .payloadLengthMismatch (hdrWord s.cfg.layout (blockHdr last 0#7 .streamInfo len)))

/-- `SI.PAYLOAD` (R120): the unit's result goes to whoever applied it; no state is written (log 10). -/
def execSiPayload (raw : SiRaw) (s : State) : Result :=
  .next (s.respond (.unit (.streamInfo (siAssemble raw))))

end Sys2Proof.Machine
end

