-- ==== Sys2Proof/Machine/Dispatch.lean ====
section
/-! DEFINITION. One arm per instruction (R146's case, R145's comparison, R120's unit): each a call of its meaning. -/

namespace Sys2Proof.Machine

/-- The meaning of an instruction whose own bytes have been read. -/
def exec (i : Instr) (s : State) : Host.Outcome State Fault Refusal :=
  match i with
  | .streaminfo last => Sys2Proof.Machine.execStreaminfo last s
  | .streaminfoBadlen last len => Sys2Proof.Machine.execStreaminfoBadlen last len s
  | .padding last len => Sys2Proof.Machine.execPadding last len s
  | .application last len => Sys2Proof.Machine.execApplication last len s
  | .seektable last len => Sys2Proof.Machine.execSeektable last len s
  | .vorbisComment last len => Sys2Proof.Machine.execVorbisComment last len s
  | .cuesheet last len => Sys2Proof.Machine.execCuesheet last len s
  | .picture last len => Sys2Proof.Machine.execPicture last len s
  | .reserved last tcode len => Sys2Proof.Machine.execReserved last tcode len s
  | .invalid last len => Sys2Proof.Machine.execInvalid last len s
  | .magic marker => Sys2Proof.Machine.execMagic marker s
  | .siPayload raw => Sys2Proof.Machine.execSiPayload raw s

end Sys2Proof.Machine
end

