-- ==== Sys2Proof/Machine/Commands.lean ====
section
/-! DEFINITION. The three commands of the sequencer (R140 to R147) and the direct applications of the function units (R9,
R90, R100, R120): what the core does with one transaction. -/

namespace Sys2Proof.Machine

/-- `START` (R145): refused outside `INIT` (R143); else read the marker and compare it. -/
def commandStart (s : State) : Result :=
  match s.st with
  | .scanning => .next (s.respond .refused)
  | .done => .next (s.respond .refused)
  | .init =>
    match memRead s 4 with
    | none => .next (s.raise .truncatedRead (countInfo 4))
    | some (m, s1) => exec (decodeMarker m) s1

/-- `STEP` (R146): refused in `INIT` (R143), `End` in `DONE` (R147); else read a header, decode it, run its arm. -/
def commandStep (s : State) : Result :=
  match s.st with
  | .init => .next (s.respond .refused)
  | .done => .next (s.respond .ended)
  | .scanning =>
    match memRead s 4 with
    | none => .next (s.raise .truncatedRead (countInfo 4))
    | some (h, s1) => exec (decodeHeader s1.cfg.layout h) s1

/-- A function unit applied to an operand (log 9). A wrong length is refused (R93, R104), and for `SI.DECODE` it is the
failure `PayloadLengthMismatch` handed back, with no state written (R131, R120). -/
def applyUnit (call : UnitCall) (s : State) : Result :=
  match call with
  | .u16be span =>
    match Span.ofList 2 span with
    | some b => .next (s.respond (.unit (.u16 (u16be b))))
    | none => .refused .preconditionViolation
  | .u24be span =>
    match Span.ofList 3 span with
    | some b => .next (s.respond (.unit (.u24 (u24be b))))
    | none => .refused .preconditionViolation
  | .hdrDecode span =>
    match Span.ofList 4 span with
    | some h => .next (s.respond (.unit (.header (hdrDecode s.cfg.layout h))))
    | none => .refused .preconditionViolation
  | .typeClassify tcode => .next (s.respond (.unit (.tclass (typeClassify tcode))))
  | .siDecode span =>
    match decode s.cfg.layout .si272 span with
    | .ok i => exec i s
    | .error _ => .next (s.respond (.unit (.failed .payloadLengthMismatch)))

/-- One transaction (R141: atomic). -/
def serve (r : Request) (s : State) : Result :=
  match r with
  | .reset => .next s.doReset
  | .start => commandStart s
  | .step => commandStep s
  | .unit call => applyUnit call s

/-- The core with what the caller presents next: nothing (the core is idle, R140, R189), or one transaction, taken from
the port and served. -/
def runNext (s : State) : Result :=
  match s.reqs with
  | [] => .next s
  | r :: rest => serve r { s with reqs := rest }

/-! ## Placing an instruction where the next step reads it (log 17) -/

/-- The state in which the next `START` reads these four bytes: as after `RESET` (in `INIT` that changes nothing). -/
def State.placeMarker (s : State) (bytes : List Byte) : State :=
  { s with
    st := .init
    err := .none
    einfo := 0#32
    pos := 0
    out := none
    mem := s.mem.load 0 bytes
    reqs := .start :: s.reqs }

/-- The state in which the next `STEP` reads these four bytes as a header, zero bytes after them as far as the longest
block reaches. Outside `SCANNING`, the state a successful `START` leaves. -/
def State.placeHeader (s : State) (bytes : List Byte) : State :=
  if s.st = .scanning then
    { s with mem := (s.mem.zero s.pos Config.maxBlock).load s.pos bytes, reqs := .step :: s.reqs }
  else
    { s with
      st := .scanning
      err := .none
      einfo := 0#32
      pos := 4
      out := none
      mem := ((s.mem.load 0 s.cfg.magic.toList).zero 4 Config.maxBlock).load 4 bytes
      reqs := .step :: s.reqs }

/-- The state in which the operand port of `SI.DECODE` holds these bytes next. -/
def State.placePayload (s : State) (bytes : List Byte) : State :=
  { s with reqs := .unit (.siDecode bytes) :: s.reqs }

/-- A word of the opcode table placed in the format it is read in. -/
def State.placeTableWord (s : State) (nbits w : Nat) : State :=
  match tableFormat nbits w with
  | some .marker32 => s.placeMarker (wordBytes 4 w)
  | some .hdr32 => s.placeHeader (wordBytes 4 w)
  | some .si272 => s.placePayload (wordBytes 34 w)
  | none => s

end Sys2Proof.Machine
end

