-- ==== Sys2Proof/Machine/Step.lean ====
section
/-! DEFINITION. One step: the core serves the next transaction of the caller (R11, R141). -/

namespace Sys2Proof.Machine

/-- One step of the machine. -/
def step (s : State) : Host.Outcome State Fault Refusal := runNext s

/-- `s` with an instruction of the opcode table placed where the next step reads it, and the transaction that reads it
presented (log 17). -/
def State.withFetchWord (s : State) (nbits w : Nat) : State := s.placeTableWord nbits w

end Sys2Proof.Machine
end

