-- ==== Sys2Proof/Safety.lean ====
section
/-! DEFINITION. What a good state is (10_state.md R32), and the terms in which runs are spoken of: several steps, the answers
they deliver, and the chain of blocks that stands in a stream (R60, R161, R162). -/

namespace Sys2Proof.Machine

/-- What every record in `OUT` satisfies (R24, R32 items 6 and 7). -/
structure RecordOk (cfg : Config) (r : Record) : Prop where
  /-- The class is that of the type code (R102). -/
  tclass_eq : r.hdr.tclass = typeClassify r.hdr.tcode
  /-- R32 item 6. -/
  streaminfo_hdr : r.kind = .streaminfoRec → r.hdr.tcode = 0#7 ∧ r.hdr.len = 34#24
  /-- The `OUT.SI.*` registers hold values exactly in a STREAMINFO record (R24). -/
  si_iff : r.si.isSome = true ↔ r.kind = .streaminfoRec
  /-- R32 item 7. -/
  warn_skip : r.warn = true → cfg.policy = .skip ∧ 7 ≤ r.hdr.tcode.toNat

/-- The invariants of R32, that of `EINFO` (R22), and the stream's canonical form. -/
structure State.Inv (s : State) : Prop where
  /-- R32 item 1. -/
  init_clean : s.st = .init → s.pos = 0 ∧ s.err = .none ∧ s.out = none
  /-- R32 item 2. -/
  scanning_clean : s.st = .scanning → s.err = .none ∧ 4 ≤ s.pos
  /-- R32 item 3. -/
  failed_done : s.err ≠ .none → s.st = .done ∧ s.out = none
  /-- R32 item 4. -/
  done_last : s.st = .done → s.err = .none → ∃ r, s.out = some r ∧ r.hdr.last = true
  /-- R32 item 5. -/
  pos_le : s.pos ≤ s.mem.size
  /-- R32 items 6 and 7, and R24. -/
  out_ok : ∀ r, s.out = some r → RecordOk s.cfg r
  /-- R22: while `ERR = NONE`, `EINFO = 0`. -/
  einfo_clean : s.err = .none → s.einfo = 0#32
  /-- The stream is in its one form (log 3). -/
  mem_wf : s.mem.wf

/-- The bytes `bs` stand in the stream from address `a` on. -/
def bytesAt (m : Memory) (a : Nat) (bs : List Byte) : Prop :=
  ∀ i, ∀ h : i < bs.length, m.read (a + i) = some bs[i]

/-- `k` steps, if none of them stops. -/
def runSteps : Nat → State → Option State
  | 0, s => some s
  | k + 1, s =>
    match step s with
    | .next t => runSteps k t
    | .fault _ => none
    | .refused _ => none

/-- The answers on the result port after each of `k` steps, in order, up to the first stop. -/
def responses : Nat → State → List Response
  | 0, _ => []
  | k + 1, s =>
    match step s with
    | .next t => t.resp.toList ++ responses k t
    | .fault _ => []
    | .refused _ => []

/-- Whether an answer is `Yielded` (R142). -/
def Response.isYield : Response → Bool
  | .yielded _ => true
  | _ => false

/-- Whether the sequencer yields a block with this header, its payload being there: a STREAMINFO block has length 34
(R148), and a reserved or invalid one is skipped by policy (R155, R156). -/
def admitted (cfg : Config) (h : BlockHeader) : Bool :=
  match h.tclass with
  | .streamInfo => h.len == 34#24
  | .reserved _ => cfg.policy == .skip
  | .invalid => cfg.policy == .skip
  | _ => true

/-- The header of the complete, admitted block that stands at offset `a`, if one does. -/
def goodBlock (s : State) (a : Nat) : Option BlockHeader :=
  if a + 4 ≤ s.mem.size then
    let h := hdrDecode s.cfg.layout (s.mem.span a 4)
    if admitted s.cfg h = true ∧ a + 4 + h.len.toNat ≤ s.mem.size then some h else none
  else none

/-- Exactly `n` good blocks stand at offset `a`, one after another, and only the last carries the flag (R60). -/
def chainAt (s : State) : Nat → Nat → Bool
  | 0, _ => false
  | n + 1, a =>
    match goodBlock s a with
    | none => false
    | some h => if h.last then n == 0 else chainAt s n (a + 4 + h.len.toNat)

/-- `n` good blocks without the flag stand at offset `a`, and after them the stream ends before another header. -/
def unflaggedAt (s : State) : Nat → Nat → Bool
  | 0, a => s.mem.size < a + 4
  | n + 1, a =>
    match goodBlock s a with
    | none => false
    | some h => !h.last && unflaggedAt s n (a + 4 + h.len.toNat)

/-- The headers of the first `n` good blocks from offset `a`. -/
def headersAt (s : State) : Nat → Nat → List BlockHeader
  | 0, _ => []
  | n + 1, a =>
    match goodBlock s a with
    | none => []
    | some h => h :: headersAt s n (a + 4 + h.len.toNat)

end Sys2Proof.Machine
end

