-- ==== Sys2Proof/Certificates/Slice0/Obligations.lean ====
section
/-! DEFINITION. The statements for the provers, file by file of spec/. -/

open Sys2Proof Sys2Proof.Machine

/-! ## 40_bitfield_extractor.md -/

/-- R91, R92: a direct application of `U16BE` and of `U24BE` answers the big-endian value; no state is written. -/
def Obligations.UnpackersAnswerBigEndianValue : Prop :=
  ∀ (s : State) (rest : List Request) (b0 b1 b2 : Byte),
    (s.reqs = .unit (.u16be [b0, b1]) :: rest →
      ∃ v : BitVec 16, step s = .next { s with reqs := rest, resp := some (.unit (.u16 v)) } ∧
        v.toNat = 256 * b0.toNat + b1.toNat) ∧
    (s.reqs = .unit (.u24be [b0, b1, b2]) :: rest →
      ∃ v : BitVec 24, step s = .next { s with reqs := rest, resp := some (.unit (.u24 v)) } ∧
        v.toNat = 65536 * b0.toNat + 256 * b1.toNat + b2.toNat)

/-- R93, R104: a span of any other length is a precondition violation, longer ones included. -/
def Obligations.WrongSpanLengthIsRefused : Prop :=
  ∀ (s : State) (rest : List Request) (span : List Byte),
    (s.reqs = .unit (.u16be span) :: rest → span.length ≠ 2 → step s = .refused .preconditionViolation) ∧
    (s.reqs = .unit (.u24be span) :: rest → span.length ≠ 3 → step s = .refused .preconditionViolation) ∧
    (s.reqs = .unit (.hdrDecode span) :: rest → span.length ≠ 4 → step s = .refused .preconditionViolation)

/-- 40 section 5 (marked derived there): both unpackers lose nothing, are monotone in the lexicographic order of their
bytes, and compose. -/
def Obligations.UnpackersAreMonotoneBijections : Prop :=
  (∀ b : Span 2, #v[(u16be b).extractLsb' 8 8, (u16be b).extractLsb' 0 8] = b) ∧
  (∀ v : BitVec 16, u16be #v[v.extractLsb' 8 8, v.extractLsb' 0 8] = v) ∧
  (∀ b : Span 3, #v[(u24be b).extractLsb' 16 8, (u24be b).extractLsb' 8 8, (u24be b).extractLsb' 0 8] = b) ∧
  (∀ v : BitVec 24, u24be #v[v.extractLsb' 16 8, v.extractLsb' 8 8, v.extractLsb' 0 8] = v) ∧
  (∀ b d : Span 2, (b[0] < d[0] ∨ b[0] = d[0] ∧ b[1] < d[1]) → u16be b < u16be d) ∧
  (∀ b d : Span 3, (b[0] < d[0] ∨ b[0] = d[0] ∧ (b[1] < d[1] ∨ b[1] = d[1] ∧ b[2] < d[2])) → u24be b < u24be d) ∧
  (∀ b0 b1 b2 : Byte, u24be #v[b0, b1, b2] = ((u16be #v[b0, b1]).setWidth 24 <<< 8) ||| b2.setWidth 24)

/-! ## 30_encoding.md and 41_header_decoder.md -/

/-- R62: the three fields of a header, by byte and by bits of the word `W`, under each layout. -/
def Obligations.HeaderFieldsStandAtTheirBits : Prop :=
  ∀ h : Span 4,
    (h[0].toNat = 2 * (hdrDecode .docLsbFlag h).tcode.toNat + (hdrDecode .docLsbFlag h).last.toNat ∧
      (hdrDecode .docLsbFlag h).tcode = (be32 h).extractLsb' 25 7 ∧
      (hdrDecode .docLsbFlag h).last = (be32 h).getLsbD 24) ∧
    (h[0].toNat = 128 * (hdrDecode .flacMsbFlag h).last.toNat + (hdrDecode .flacMsbFlag h).tcode.toNat ∧
      (hdrDecode .flacMsbFlag h).last = (be32 h).getLsbD 31 ∧
      (hdrDecode .flacMsbFlag h).tcode = (be32 h).extractLsb' 24 7) ∧
    ∀ layout, (hdrDecode layout h).len.toNat = 65536 * h[1].toNat + 256 * h[2].toNat + h[3].toNat ∧
      (hdrDecode layout h).len = (be32 h).extractLsb' 0 24

/-- R102: every one of the 128 codes has its class. -/
def Obligations.TypeCodesClassifyTotally : Prop :=
  typeClassify 0#7 = .streamInfo ∧ typeClassify 1#7 = .padding ∧ typeClassify 2#7 = .application ∧
  typeClassify 3#7 = .seekTable ∧ typeClassify 4#7 = .vorbisComment ∧ typeClassify 5#7 = .cuesheet ∧
  typeClassify 6#7 = .picture ∧ typeClassify 127#7 = .invalid ∧
  ∀ c : BitVec 7, 7 ≤ c.toNat → c.toNat ≤ 126 → typeClassify c = .reserved c

/-- R101, R102: a direct application of `HDR.DECODE` or `TYPE.CLASSIFY` answers the header or the class, under the layout
of the configuration; no state is written. -/
def Obligations.HeaderUnitAnswersHeader : Prop :=
  ∀ (s : State) (rest : List Request),
    (∀ h : Span 4, s.reqs = .unit (.hdrDecode h.toList) :: rest →
      ∃ hdr : BlockHeader, step s = .next { s with reqs := rest, resp := some (.unit (.header hdr)) } ∧
        (s.cfg.layout = .docLsbFlag → h[0].toNat = 2 * hdr.tcode.toNat + hdr.last.toNat) ∧
        (s.cfg.layout = .flacMsbFlag → h[0].toNat = 128 * hdr.last.toNat + hdr.tcode.toNat) ∧
        hdr.len.toNat = 65536 * h[1].toNat + 256 * h[2].toNat + h[3].toNat ∧
        hdr.tclass = typeClassify hdr.tcode) ∧
    (∀ c, s.reqs = .unit (.typeClassify c) :: rest →
      step s = .next { s with reqs := rest, resp := some (.unit (.tclass (typeClassify c))) })

/-- 41 section 1 (R101's corner case, marked derived there): the layouts agree on byte 0 exactly at `00` and `FF`. -/
def Obligations.LayoutsAgreeOnlyOnUniformBytes : Prop :=
  ∀ h : Span 4, (hdrDecode .docLsbFlag h = hdrDecode .flacMsbFlag h) ↔ (h[0] = 0x00#8 ∨ h[0] = 0xFF#8)

/-- 41 section 3: the header codec is a bijection under both layouts, all 128 type codes included; so the word `W` the
model rebuilds from the fields (log 13) is the word that was read. -/
def Obligations.HeaderCodecIsBijective : Prop :=
  ∀ layout : HdrLayout,
    (∀ last tcode len, hdrDecode layout (hdrEncode layout last tcode len) =
      { last := last, tcode := tcode, tclass := typeClassify tcode, len := len }) ∧
    (∀ h : Span 4, hdrEncode layout (hdrDecode layout h).last (hdrDecode layout h).tcode (hdrDecode layout h).len = h) ∧
    (∀ h : Span 4, hdrWord layout (hdrDecode layout h) = be32 h)

/-- Decoding the encoding of a well-formed instruction gives it back, under both layouts and at every operand. -/
def Obligations.DecodeOfEncodeIsIdentity : Prop :=
  ∀ (layout : HdrLayout) (i : Instr), i.wellFormed = true → decode layout i.format (encode layout i) = .ok i

/-- Encoding what was decoded gives the bytes back, and only well-formed instructions are decoded. -/
def Obligations.EncodeOfDecodeIsIdentity : Prop :=
  ∀ (layout : HdrLayout) (f : Format) (bs : List Byte) (i : Instr), decode layout f bs = .ok i →
    i.wellFormed = true ∧ i.format = f ∧ encode layout i = bs

/-- Every span of a format's length is an instruction of that format (a marker: 30 section 1, of R60; a header: 30 section 2,
of R63; a payload: 30 section 4, of R71). Every other length is rejected (a header: 41 section 2, of R104; a payload: 42
section 3, of R131); that a marker's is rejected too, and the one name `wrongLength` for all three, are the model's own
(log 24). -/
def Obligations.DecodingIsTotal : Prop :=
  ∀ (layout : HdrLayout) (f : Format) (bs : List Byte),
    (bs.length = f.size → ∃ i, decode layout f bs = .ok i ∧ i.format = f) ∧
    (bs.length ≠ f.size → decode layout f bs = .error (.wrongLength f bs.length))

/-- 30 sections 3 and 6: the mask and pattern rows of the layout in force select, for every header word, the arm the
decoder selects, and the two STREAMINFO rows are the only ones that can match one word together. -/
def Obligations.OpcodeMapAgreesWithDecoder : Prop :=
  ∀ layout : HdrLayout,
    (∀ h : Span 4, ∃ r, rowOf layout (be32 h) = some r ∧ r.mnemonic = (decodeHeader layout h).mnemonic) ∧
    (headerRows layout).Pairwise fun a b =>
      ∀ w : BitVec 32, w &&& a.mask = a.pattern → w &&& b.mask = b.pattern →
        a.mnemonic = "BLK.STREAMINFO" ∧ b.mnemonic = "BLK.STREAMINFO.BADLEN"

/-- Words written out from the table's encodings, under the layout R5 fixes: a sanity check of decoding. The last
is the marker: its bytes are marked as general knowledge in the spec (log 5), and that this one table word is read as the
marker and not as the `BLK.RESERVED` header it also is under this layout is the model's choice (log 11). -/
def Obligations.WrittenWordsDecode : Prop :=
  decodeTableWord 32 0x01000022 = some (.streaminfo true) ∧
  decodeTableWord 32 0x00000014 = some (.streaminfoBadlen false 20#24) ∧
  decodeTableWord 32 0x09000028 = some (.vorbisComment true 40#24) ∧
  decodeTableWord 32 0x0CFFFFFF = some (.picture false 16777215#24) ∧
  decodeTableWord 32 0xFD000000 = some (.reserved true 126#7 0#24) ∧
  decodeTableWord 32 0xFE000001 = some (.invalid false 1#24) ∧
  decodeTableWord 32 0x664C6143 = some (.magic #v[0x66, 0x4C, 0x61, 0x43])

/-! ## 42_streaminfo_decoder.md -/

/-- R121 to R129: the nine outputs of `SI.DECODE`, as numbers made of the payload's bytes. -/
def Obligations.StreamInfoFieldValues : Prop :=
  ∀ p : Span 34,
    (siDecode p).minblk.toNat = 256 * p[0].toNat + p[1].toNat ∧
    (siDecode p).maxblk.toNat = 256 * p[2].toNat + p[3].toNat ∧
    (siDecode p).minfrm.toNat = 65536 * p[4].toNat + 256 * p[5].toNat + p[6].toNat ∧
    (siDecode p).maxfrm.toNat = 65536 * p[7].toNat + 256 * p[8].toNat + p[9].toNat ∧
    (siDecode p).rate.toNat = 4096 * p[10].toNat + 16 * p[11].toNat + p[12].toNat / 16 ∧
    (siDecode p).channels.toNat = p[12].toNat / 2 % 8 + 1 ∧
    (siDecode p).bps.toNat = 16 * (p[12].toNat % 2) + p[13].toNat / 16 + 1 ∧
    (siDecode p).total.toNat =
      2 ^ 32 * (p[13].toNat % 16) + 2 ^ 24 * p[14].toNat + 65536 * p[15].toNat + 256 * p[16].toNat + p[17].toNat ∧
    ∀ i : Fin 16, (siDecode p).md5[i] = p[18 + i.val]

/-- 42 section 3 (R135's closing law, marked derived there): `SI.DECODE` and `SI.ENCODE` are inverse to each other. -/
def Obligations.StreamInfoCodecIsBijective : Prop :=
  (∀ p : Span 34, siEncode (siDecode p) = p) ∧
  (∀ x : StreamInfo, 1 ≤ x.channels.toNat → x.channels.toNat ≤ 8 → 1 ≤ x.bps.toNat → x.bps.toNat ≤ 32 →
    siDecode (siEncode x) = x)

/-- 42 section 3 (R134, marked derived there), to the bit: what each field depends on. -/
def Obligations.StreamInfoFieldDependencies : Prop :=
  ∀ p q : Span 34,
    (p[0] = q[0] → p[1] = q[1] → (siDecode p).minblk = (siDecode q).minblk) ∧
    (p[2] = q[2] → p[3] = q[3] → (siDecode p).maxblk = (siDecode q).maxblk) ∧
    (p[4] = q[4] → p[5] = q[5] → p[6] = q[6] → (siDecode p).minfrm = (siDecode q).minfrm) ∧
    (p[7] = q[7] → p[8] = q[8] → p[9] = q[9] → (siDecode p).maxfrm = (siDecode q).maxfrm) ∧
    (p[10] = q[10] → p[11] = q[11] → p[12].extractLsb' 4 4 = q[12].extractLsb' 4 4 →
      (siDecode p).rate = (siDecode q).rate) ∧
    (p[12].extractLsb' 1 3 = q[12].extractLsb' 1 3 → (siDecode p).channels = (siDecode q).channels) ∧
    (p[12].getLsbD 0 = q[12].getLsbD 0 → p[13].extractLsb' 4 4 = q[13].extractLsb' 4 4 →
      (siDecode p).bps = (siDecode q).bps) ∧
    (p[13].extractLsb' 0 4 = q[13].extractLsb' 0 4 → p[14] = q[14] → p[15] = q[15] → p[16] = q[16] → p[17] = q[17] →
      (siDecode p).total = (siDecode q).total) ∧
    ∀ i : Fin 16, p[18 + i.val] = q[18 + i.val] → (siDecode p).md5[i] = (siDecode q).md5[i]

/-- R136: the source's test vector, which is the authority for the layout. -/
def Obligations.SourceVectorDecodes : Prop :=
  siDecode #v[16, 0, 16, 0, 0, 0, 16, 0, 55, 204, 10, 196, 66, 240, 0, 161, 235, 180,
      134, 228, 11, 72, 80, 182, 87, 11, 41, 90, 91, 38, 134, 143, 114, 67] =
    { minblk := 4096, maxblk := 4096, minfrm := 16, maxfrm := 14284, rate := 44100, channels := 2, bps := 16,
      total := 10611636,
      md5 := #v[0x86, 0xE4, 0x0B, 0x48, 0x50, 0xB6, 0x57, 0x0B, 0x29, 0x5A, 0x5B, 0x26, 0x86, 0x8F, 0x72, 0x43] }

/-- The instruction `SI.PAYLOAD` runs in every state, answers the nine fields with the offset law of 42 section 2 (of R126,
R127), and writes no state. That the table's row (30 section 6, of R75) is an instruction, and that its meaning is the answer
of `SI.DECODE` (42 section 1, of R120), is the model's reading (log 10). -/
def Obligations.SiPayloadAnswersNineFields : Prop :=
  ∀ (raw : SiRaw) (s : State), ∃ x : StreamInfo,
    exec (.siPayload raw) s = .next { s with resp := some (.unit (.streamInfo x)) } ∧
    x.minblk = raw.minblk ∧ x.maxblk = raw.maxblk ∧ x.minfrm = raw.minfrm ∧ x.maxfrm = raw.maxfrm ∧
    x.rate = raw.rate ∧ x.channels.toNat = raw.chan.toNat + 1 ∧ x.bps.toNat = raw.bps.toNat + 1 ∧
    x.total = raw.total ∧ x.md5 = raw.md5

/-- 42 section 3 (of R131): the unit `SI.DECODE` applied to a list decodes 34 bytes, and hands back `PayloadLengthMismatch` for every other
length, shorter or longer, decoding no field; that it is not recorded in `ERR` is the model's reading (log 9). -/
def Obligations.SiUnitChecksItsLength : Prop :=
  ∀ (s : State) (rest : List Request),
    (∀ p : Span 34, s.reqs = .unit (.siDecode p.toList) :: rest →
      step s = .next { s with reqs := rest, resp := some (.unit (.streamInfo (siDecode p))) }) ∧
    (∀ span : List Byte, s.reqs = .unit (.siDecode span) :: rest → span.length ≠ 34 →
      step s = .next { s with reqs := rest, resp := some (.unit (.failed .payloadLengthMismatch)) })

/-- 40, 41 and 42 section 1 (of R90, R100, R120): no direct application of a unit writes any state element of R20. For
`SI.DECODE` on a wrong length, that the failure is handed back and `ERR` and `EINFO` are left alone is the model's reading
(log 9). -/
def Obligations.UnitsWriteNoState : Prop :=
  ∀ (s t : State) (call : UnitCall) (rest : List Request), s.reqs = .unit call :: rest → step s = .next t →
    t.st = s.st ∧ t.err = s.err ∧ t.einfo = s.einfo ∧ t.pos = s.pos ∧ t.out = s.out ∧ t.cfg = s.cfg ∧ t.mem = s.mem ∧
      t.reqs = rest ∧ ∃ r, t.resp = some (.unit r)

/-! ## 20_memory.md -/

/-- R43, R57: a read returns exactly its bytes and moves the cursor past them, or fails and moves nothing; a read of zero
bytes succeeds everywhere. -/
def Obligations.MemReadIsAllOrNothing : Prop :=
  ∀ (s : State) (n : Nat),
    (n = 0 ∨ s.pos + n ≤ s.mem.size → ∃ p : Span n, memRead s n = some (p, { s with pos := s.pos + n }) ∧
      bytesAt s.mem s.pos p.toList) ∧
    (n ≠ 0 → s.mem.size < s.pos + n → memRead s n = none)

/-- R46: no transaction writes the stream; nor does one write the configuration (R27), and each takes exactly itself from
the caller's script. -/
def Obligations.StreamIsNeverWritten : Prop :=
  ∀ s t : State, step s = .next t →
    (∀ a, t.mem.read a = s.mem.read a) ∧ t.mem = s.mem ∧ t.cfg = s.cfg ∧ t.reqs = s.reqs.tail

/-- 10 section 4 (of R23, how `POS` advances): never backward but by `RESET`, and by `4 + block_length` for a yield. -/
def Obligations.CursorNeverMovesBackward : Prop :=
  ∀ (s t : State) (r : Request) (rest : List Request), s.reqs = r :: rest → step s = .next t →
    (r ≠ .reset → s.pos ≤ t.pos) ∧
    (∀ rec, t.resp = some (.yielded rec) → t.pos = s.pos + 4 + rec.hdr.len.toNat) ∧
    (t.resp = some .started → t.pos = s.pos + 4) ∧
    (t.resp = some .ended → t.pos = s.pos) ∧ (t.resp = some .refused → t.pos = s.pos)

/-- 20 section 1 (of R48) and 43 section 1 (of R146), no byte is read past the block: a `STEP` that yields does the same on every stream that agrees on
the bytes of the block. -/
def Obligations.BytesPastTheBlockDoNotMatter : Prop :=
  ∀ (s t : State) (rest : List Request) (rec : Record) (m : Memory),
    s.reqs = .step :: rest → step s = .next t → t.resp = some (.yielded rec) →
    t.pos ≤ m.size → (∀ a, s.pos ≤ a → a < t.pos → m.read a = s.mem.read a) →
    step { s with mem := m } = .next { t with mem := m }

/-- 30 section 5 of R74: the payload bytes of a block that is not STREAMINFO are not interpreted: on any stream of the same
length the instruction does the same. -/
def Obligations.OpaquePayloadIsNotInterpreted : Prop :=
  ∀ (i : Instr) (s t : State) (m : Memory), (∀ last, i ≠ .streaminfo last) → m.size = s.mem.size →
    exec i s = .next t → exec i { s with mem := m } = .next { t with mem := m }

/-! ## 43_chain_sequencer.md: the commands -/

/-- R144: `RESET`, from every state; and it is the only transaction that leaves `DONE` or clears `ERR`. -/
def Obligations.ResetClearsTheMachine : Prop :=
  ∀ (s : State) (r : Request) (rest : List Request), s.reqs = r :: rest →
    (r = .reset →
      step s = .next { s with st := .init, err := .none, einfo := 0#32, pos := 0, out := none, reqs := rest,
                              resp := some .resetDone }) ∧
    (∀ t, r ≠ .reset → s.st = .done → step s = .next t →
      t.st = .done ∧ t.err = s.err ∧ t.einfo = s.einfo ∧ t.pos = s.pos ∧ t.out = s.out) ∧
    (∀ t, r ≠ .reset → s.err ≠ .none → step s = .next t → t.err ≠ .none)

/-- R31: the value of every state element after power-on and after a `RESET` from any state; every `OUT.*` register then
holds no value, and `CFG` and `MAGIC` keep the configured value. -/
def Obligations.PowerOnValues : Prop :=
  (State.reset.st = .init ∧ State.reset.err = .none ∧ State.reset.einfo = 0#32 ∧ State.reset.pos = 0 ∧
    State.reset.out = none ∧ ∀ r : Reg, r.number = none → readReg State.reset r = none) ∧
  ∀ (s : State) (rest : List Request), s.reqs = .reset :: rest →
    ∃ t, step s = .next t ∧ t.st = .init ∧ t.err = .none ∧ t.einfo = 0#32 ∧ t.pos = 0 ∧ t.out = none ∧
      (∀ r : Reg, r.number = none → readReg t r = none) ∧ readReg t .cfg = readReg s .cfg ∧
      readReg t .magic = readReg s .magic

/-- R143: `START` outside `INIT` and `STEP` in `INIT` are refused: nothing changes and no byte is read. -/
def Obligations.WrongStateCommandsAreRefused : Prop :=
  ∀ (s : State) (rest : List Request),
    (s.reqs = .start :: rest → s.st ≠ .init → step s = .next { s with reqs := rest, resp := some .refused }) ∧
    (s.reqs = .step :: rest → s.st = .init → step s = .next { s with reqs := rest, resp := some .refused })

/-- R145: `START` reads four bytes and compares them with the marker. -/
def Obligations.StartVerifiesTheMarker : Prop :=
  ∀ (s : State) (rest : List Request), s.reqs = .start :: rest →
    (s.st ≠ .init → step s = .next { s with reqs := rest, resp := some .refused }) ∧
    (s.st = .init → s.mem.size < s.pos + 4 →
      step s = .next { s with st := .done, err := .failed .truncatedRead, einfo := 4#32, out := none, reqs := rest,
                              resp := some (.failed .truncatedRead 4#32) }) ∧
    (∀ m : Span 4, s.st = .init → bytesAt s.mem s.pos m.toList → m = s.cfg.magic →
      step s = .next { s with st := .scanning, pos := s.pos + 4, reqs := rest, resp := some .started }) ∧
    (∀ m : Span 4, s.st = .init → bytesAt s.mem s.pos m.toList → m ≠ s.cfg.magic →
      step s = .next { s with st := .done, err := .failed .notAContainer, einfo := be32 m, pos := s.pos + 4,
                              out := none, reqs := rest, resp := some (.failed .notAContainer (be32 m)) })

/-- The instruction `MAGIC` itself (43 section 1): both outcomes of the comparison, and nothing else changed. -/
def Obligations.MarkerComparisonCompletes : Prop :=
  ∀ (m : Span 4) (s : State),
    (m = s.cfg.magic → exec (.magic m) s = .next { s with st := .scanning, resp := some .started }) ∧
    (m ≠ s.cfg.magic → exec (.magic m) s =
      .next { s with st := .done, err := .failed .notAContainer, einfo := be32 m, out := none,
                     resp := some (.failed .notAContainer (be32 m)) })

/-- When the bytes at the cursor are an instruction's, the step is its `exec`, past the bytes just read: a header for `STEP`
in `SCANNING` and the marker for `START` in `INIT` (43 section 1, of R145, R146). A payload at the operand port of `SI.DECODE`
(42 section 1, of R120) runs the instruction `SI.PAYLOAD`: that clause is the model's reading (log 10). -/
def Obligations.StepRunsTheDecodedInstruction : Prop :=
  ∀ (s : State) (rest : List Request) (i : Instr), i.wellFormed = true →
    (i.format = .hdr32 → s.reqs = .step :: rest → s.st = .scanning → bytesAt s.mem s.pos (encode s.cfg.layout i) →
      step s = exec i { s with reqs := rest, pos := s.pos + 4 }) ∧
    (i.format = .marker32 → s.reqs = .start :: rest → s.st = .init → bytesAt s.mem s.pos (encode s.cfg.layout i) →
      step s = exec i { s with reqs := rest, pos := s.pos + 4 }) ∧
    (i.format = .si272 → s.reqs = .unit (.siDecode (encode s.cfg.layout i)) :: rest →
      step s = exec i { s with reqs := rest })

/-- R147: `STEP` in `DONE` answers `End`, reads nothing and changes nothing, however often it is issued. -/
def Obligations.DoneAnswersEndForever : Prop :=
  ∀ (k : Nat) (s : State) (rest : List Request), s.st = .done → s.reqs = List.replicate (k + 1) .step ++ rest →
    runSteps (k + 1) s = some { s with reqs := rest, resp := some .ended } ∧
    responses (k + 1) s = List.replicate (k + 1) .ended

/-- R189, R140: with nothing presented the core is idle and keeps all state. -/
def Obligations.IdleCoreKeepsAllState : Prop :=
  ∀ s : State, s.reqs = [] → step s = .next s

/-! ## 43_chain_sequencer.md: the block arms -/

/-- R149 to R154: each opaque arm skips its payload and yields its header only, or fails its skip; `len = 0` skips
nothing. -/
def Obligations.OpaqueArmsSkipAndYield : Prop :=
  ∀ (i : Instr) (hdr : BlockHeader) (s : State) (last : Bool) (len : BitVec 24),
    (i, hdr) ∈ [(Instr.padding last len, { last := last, tcode := 1#7, tclass := TClass.padding, len := len }),
      (Instr.application last len, { last := last, tcode := 2#7, tclass := TClass.application, len := len }),
      (Instr.seektable last len, { last := last, tcode := 3#7, tclass := TClass.seekTable, len := len }),
      (Instr.vorbisComment last len, { last := last, tcode := 4#7, tclass := TClass.vorbisComment, len := len }),
      (Instr.cuesheet last len, { last := last, tcode := 5#7, tclass := TClass.cuesheet, len := len }),
      (Instr.picture last len, { last := last, tcode := 6#7, tclass := TClass.picture, len := len })] →
    (len.toNat = 0 ∨ s.pos + len.toNat ≤ s.mem.size →
      exec i s = .next { s with
        pos := s.pos + len.toNat
        out := some { kind := .opaqueRec, hdr := hdr, warn := false, si := none }
        st := if last = true then .done else s.st
        resp := some (.yielded { kind := .opaqueRec, hdr := hdr, warn := false, si := none }) }) ∧
    (len.toNat ≠ 0 → s.mem.size < s.pos + len.toNat →
      exec i s = .next { s with st := .done, err := .failed .truncatedRead, einfo := len.setWidth 32, out := none,
                                resp := some (.failed .truncatedRead (len.setWidth 32)) })

/-- R148: the STREAMINFO arm: length 34 reads and decodes the payload, or fails its read; any other length is the mismatch,
before any payload byte is read. -/
def Obligations.StreamInfoArmDecodesOrFails : Prop :=
  ∀ (s : State) (last : Bool),
    (∀ p : Span 34, bytesAt s.mem s.pos p.toList →
      exec (.streaminfo last) s = .next { s with
        pos := s.pos + 34
        out := some { kind := .streaminfoRec, hdr := { last := last, tcode := 0#7, tclass := .streamInfo, len := 34#24 },
                      warn := false, si := some (siDecode p) }
        st := if last = true then .done else s.st
        resp := some (.yielded
          { kind := .streaminfoRec, hdr := { last := last, tcode := 0#7, tclass := .streamInfo, len := 34#24 },
            warn := false, si := some (siDecode p) }) }) ∧
    (s.mem.size < s.pos + 34 →
      exec (.streaminfo last) s =
        .next { s with st := .done, err := .failed .truncatedRead, einfo := 34#32, out := none,
                       resp := some (.failed .truncatedRead 34#32) }) ∧
    (∀ len : BitVec 24, len ≠ 34#24 →
      exec (.streaminfoBadlen last len) s =
        .next { s with st := .done, err := .failed .payloadLengthMismatch
                       einfo := be32 (hdrEncode s.cfg.layout last 0#7 len), out := none
                       resp := some (.failed .payloadLengthMismatch (be32 (hdrEncode s.cfg.layout last 0#7 len))) })

/-- R155, R156: the reserved and the invalid arm under both policies. -/
def Obligations.ReservedArmsFollowThePolicy : Prop :=
  ∀ (i : Instr) (hdr : BlockHeader) (s : State) (last : Bool) (tcode : BitVec 7) (len : BitVec 24),
    7 ≤ tcode.toNat → tcode.toNat ≤ 126 →
    (i, hdr) ∈
      [(Instr.reserved last tcode len, { last := last, tcode := tcode, tclass := TClass.reserved tcode, len := len }),
       (Instr.invalid last len, { last := last, tcode := 127#7, tclass := TClass.invalid, len := len })] →
    (s.cfg.policy = .abort →
      exec i s = .next { s with
        st := .done
        err := .failed .reservedOrInvalidBlockType
        einfo := be32 (hdrEncode s.cfg.layout last hdr.tcode len)
        out := none
        resp := some (.failed .reservedOrInvalidBlockType (be32 (hdrEncode s.cfg.layout last hdr.tcode len))) }) ∧
    (s.cfg.policy = .skip → len.toNat = 0 ∨ s.pos + len.toNat ≤ s.mem.size →
      exec i s = .next { s with
        pos := s.pos + len.toNat
        out := some { kind := .opaqueRec, hdr := hdr, warn := true, si := none }
        st := if last = true then .done else s.st
        resp := some (.yielded { kind := .opaqueRec, hdr := hdr, warn := true, si := none }) }) ∧
    (s.cfg.policy = .skip → len.toNat ≠ 0 → s.mem.size < s.pos + len.toNat →
      exec i s = .next { s with st := .done, err := .failed .truncatedRead, einfo := len.setWidth 32, out := none,
                                resp := some (.failed .truncatedRead (len.setWidth 32)) })

/-- R157: the flag acts after the yield, for every arm alike and only by the header's own flag; the cursor then stands at the
first byte after the block. -/
def Obligations.LastFlagEndsTheChain : Prop :=
  ∀ (s t : State) (rest : List Request) (rec : Record),
    s.reqs = .step :: rest → step s = .next t → t.resp = some (.yielded rec) →
    s.st = .scanning ∧ t.st = (if rec.hdr.last = true then .done else .scanning) ∧ t.out = some rec ∧
      t.pos = s.pos + 4 + rec.hdr.len.toNat ∧ t.err = s.err ∧ t.einfo = s.einfo ∧
      ∃ h : Span 4, bytesAt s.mem s.pos h.toList ∧ rec.hdr = hdrDecode s.cfg.layout h

/-- 43 section 1 (of R146, its success): where a complete, admitted block stands at the cursor, `STEP` yields its record whole:
the kind, the header, the warning, and the nine fields exactly for STREAMINFO. -/
def Obligations.StepYieldsTheBlock : Prop :=
  ∀ (s : State) (rest : List Request) (h : Span 4) (hdr : BlockHeader), s.reqs = .step :: rest → s.st = .scanning →
    bytesAt s.mem s.pos h.toList → hdr = hdrDecode s.cfg.layout h → admitted s.cfg hdr = true →
    s.pos + 4 + hdr.len.toNat ≤ s.mem.size →
    ∃ rec, step s = .next { s with
        st := if hdr.last = true then .done else .scanning
        pos := s.pos + 4 + hdr.len.toNat
        out := some rec
        reqs := rest
        resp := some (.yielded rec) } ∧
      rec.hdr = hdr ∧ (rec.warn = true ↔ 7 ≤ hdr.tcode.toNat) ∧ (rec.kind = .streaminfoRec ↔ hdr.tcode = 0#7) ∧
      (∀ p : Span 34, hdr.tcode = 0#7 → bytesAt s.mem (s.pos + 4) p.toList → rec.si = some (siDecode p)) ∧
      (hdr.tcode ≠ 0#7 → rec.si = none)

/-! ## 60_exceptions.md -/

/-- R178: the four places of `TruncatedRead`: the marker, a header, a STREAMINFO payload, and a skip (of an opaque block, or
of an unsupported one under `SKIP`); `POS` counts what was received before. -/
def Obligations.TruncatedReadsEndTheChain : Prop :=
  (∀ (s : State) (r : Request) (rest : List Request), s.reqs = r :: rest →
    (r = .start ∧ s.st = .init ∨ r = .step ∧ s.st = .scanning) → s.mem.size < s.pos + 4 →
    step s = .next { s with st := .done, err := .failed .truncatedRead, einfo := 4#32, out := none, reqs := rest,
                            resp := some (.failed .truncatedRead 4#32) }) ∧
  (∀ (s : State) (rest : List Request) (h : Span 4), s.reqs = .step :: rest → s.st = .scanning →
    bytesAt s.mem s.pos h.toList → admitted s.cfg (hdrDecode s.cfg.layout h) = true →
    (hdrDecode s.cfg.layout h).len.toNat ≠ 0 →
    s.mem.size < s.pos + 4 + (hdrDecode s.cfg.layout h).len.toNat →
    step s = .next { s with
      st := .done
      err := .failed .truncatedRead
      einfo := (hdrDecode s.cfg.layout h).len.setWidth 32
      pos := s.pos + 4
      out := none
      reqs := rest
      resp := some (.failed .truncatedRead ((hdrDecode s.cfg.layout h).len.setWidth 32)) })

/-- R180 and R179's `ABORT` half: what the header alone shows is reported before any payload byte is read, whatever the
stream holds after it; `EINFO` is the word read. -/
def Obligations.HeaderFailuresRecordTheWord : Prop :=
  ∀ (s : State) (rest : List Request) (h : Span 4), s.reqs = .step :: rest → s.st = .scanning →
    bytesAt s.mem s.pos h.toList →
    ((hdrDecode s.cfg.layout h).tcode = 0#7 → (hdrDecode s.cfg.layout h).len ≠ 34#24 →
      step s = .next { s with st := .done, err := .failed .payloadLengthMismatch, einfo := be32 h, pos := s.pos + 4,
                              out := none, reqs := rest, resp := some (.failed .payloadLengthMismatch (be32 h)) }) ∧
    (7 ≤ (hdrDecode s.cfg.layout h).tcode.toNat → s.cfg.policy = .abort →
      step s = .next { s with st := .done, err := .failed .reservedOrInvalidBlockType, einfo := be32 h,
                              pos := s.pos + 4, out := none, reqs := rest,
                              resp := some (.failed .reservedOrInvalidBlockType (be32 h)) })

/-- 10 section 3 (of R22) and R181's "never overwritten": a recorded failure stands until `RESET`. -/
def Obligations.RecordedFailureStands : Prop :=
  ∀ s t : State, s.Inv → s.err ≠ .none → s.reqs.head? ≠ some .reset → step s = .next t →
    t.err = s.err ∧ t.einfo = s.einfo ∧ t.st = s.st ∧ t.out = s.out ∧ t.pos = s.pos

/-- R25: `OUT` is `none` after `RESET`, after a successful `START` and after every failure entry, an `End` leaves it, and while
it is `none` every `OUT.*` register reads as no value. -/
def Obligations.OutIsEmptiedOrKept : Prop :=
  ∀ (s t : State) (r : Request) (rest : List Request), s.Inv → s.reqs = r :: rest → step s = .next t →
    (t.resp = some .resetDone → t.out = none) ∧ (t.resp = some .started → t.out = none) ∧
    (∀ k info, t.resp = some (.failed k info) → t.out = none) ∧ (t.resp = some .ended → t.out = s.out) ∧
    (t.out = none → ∀ reg : Reg, reg.number = none → readReg t reg = none)

/-- No instruction stops the machine: every one completes in every state, with an answer. -/
def Obligations.EveryInstructionAnswers : Prop :=
  ∀ (i : Instr) (s : State), ∃ t, exec i s = .next t ∧ ∃ r, t.resp = some r

/-- The one thing a step refuses is a unit applied to a span of the wrong length (60 section 1 of R173). -/
def Obligations.OnlyWrongSpansAreRefused : Prop :=
  ∀ (s : State) (why : Refusal), step s = .refused why →
    why = .preconditionViolation ∧ ∃ (span : List Byte) (rest : List Request),
      (s.reqs = .unit (.u16be span) :: rest ∧ span.length ≠ 2) ∨
      (s.reqs = .unit (.u24be span) :: rest ∧ span.length ≠ 3) ∨
      (s.reqs = .unit (.hdrDecode span) :: rest ∧ span.length ≠ 4)

/-- The frame of every instruction: what it leaves unchanged, and by what answer each change is told. No instruction stores:
every byte of the stream reads as before. -/
def Obligations.InstructionFrame : Prop :=
  ∀ (i : Instr) (s t : State), exec i s = .next t →
    t.cfg = s.cfg ∧ t.reqs = s.reqs ∧ t.mem.size = s.mem.size ∧ (∀ a, t.mem.read a = s.mem.read a) ∧
    (t.pos = s.pos ∨ ∃ hdr rec, i.header = some hdr ∧ t.pos = s.pos + hdr.len.toNat ∧ rec.hdr = hdr ∧
      t.resp = some (.yielded rec)) ∧
    (t.err = s.err ∧ t.einfo = s.einfo ∨ ∃ k info, t.resp = some (.failed k info) ∧ t.err = .failed k ∧
      t.einfo = info ∧ t.st = .done ∧ t.out = none ∧ t.pos = s.pos) ∧
    (t.out = s.out ∨ (∃ rec, t.resp = some (.yielded rec) ∧ t.out = some rec) ∨
      ∃ k info, t.resp = some (.failed k info) ∧ t.out = none) ∧
    (t.st = s.st ∨ (∃ m, i = .magic m ∧ t.resp = some .started ∧ t.st = .scanning) ∨
      (∃ rec, t.resp = some (.yielded rec) ∧ rec.hdr.last = true ∧ t.st = .done) ∨
      ∃ k info, t.resp = some (.failed k info) ∧ t.st = .done)

/-! ## 10_state.md -/

/-- 10 section 7 (of R27): the fields of `STATUS`, of `CFG` and of `MAGIC` as the caller reads them, with the numeric codes of
`ST` (10 section 2, of R21) and of `ERR` (10 section 3, of R22). -/
def Obligations.StatusRegistersShowTheirFields : Prop :=
  ∀ s : State,
    ((s.statusWord.extractLsb' 0 2).toNat = (match s.st with
      | .init => 0
      | .scanning => 1
      | .done => 2)) ∧
    ((s.statusWord.extractLsb' 2 3).toNat = (match s.err with
      | .none => 0
      | .failed .notAContainer => 1
      | .failed .truncatedRead => 2
      | .failed .reservedOrInvalidBlockType => 3
      | .failed .payloadLengthMismatch => 4)) ∧
    s.statusWord.getLsbD 5 = s.out.isSome ∧ s.statusWord.extractLsb' 6 26 = 0#26 ∧
    ((cfgWord s.cfg).getLsbD 0 = (s.cfg.layout == .flacMsbFlag) ∧
      (cfgWord s.cfg).getLsbD 1 = (s.cfg.policy == .skip) ∧ (cfgWord s.cfg).extractLsb' 2 30 = 0#30) ∧
    readReg s .status = some (.field 32 s.statusWord.toNat) ∧ readReg s .einfo = some (.field 32 s.einfo.toNat) ∧
    readReg s .cfg = some (.field 32 (cfgWord s.cfg).toNat) ∧
    readReg s .magic = some (.field 32 (be32 s.cfg.magic).toNat) ∧ readReg s .pos = some (.unbounded s.pos)

/-- 10 section 12 (R32, marked derived there): the invariants hold after power-on. -/
def Obligations.InvariantsHoldAtReset : Prop := State.reset.Inv

/-- 10 section 12 (R32, marked derived there): every step keeps the invariants. -/
def Obligations.StepKeepsTheInvariants : Prop :=
  ∀ s t : State, s.Inv → step s = .next t → t.Inv

/-! ## 43_chain_sequencer.md: properties of a run (marked derived there) -/

/-- R161 items 1 and 4: where `n` good blocks stand at the cursor and only the last has the flag, `n` calls of `STEP` yield
their `n` records in stream order and every later one answers `End`. -/
def Obligations.FlaggedChainYieldsEveryBlock : Prop :=
  ∀ (n k : Nat) (s : State) (rest : List Request), s.st = .scanning → chainAt s n s.pos = true →
    s.reqs = List.replicate (n + k) .step ++ rest →
    ∃ recs : List Record, recs.length = n ∧ recs.map Record.hdr = headersAt s n s.pos ∧
      responses (n + k) s = recs.map Response.yielded ++ List.replicate k .ended

/-- R161 item 2: a chain that never sets the flag yields its blocks and then surfaces `TruncatedRead` once. -/
def Obligations.UnflaggedChainSurfacesTruncation : Prop :=
  ∀ (n k : Nat) (s : State) (rest : List Request), s.st = .scanning → unflaggedAt s n s.pos = true →
    s.reqs = List.replicate (n + 1 + k) .step ++ rest →
    ∃ recs : List Record, recs.length = n ∧ recs.map Record.hdr = headersAt s n s.pos ∧
      responses (n + 1 + k) s =
        recs.map Response.yielded ++ .failed .truncatedRead 4#32 :: List.replicate k .ended

/-- R162: from `SCANNING`, `(L - POS) div 4 + 1` calls of `STEP` reach `DONE`, and at most `(L - POS) div 4` of them
yield; it rests on a byte source that answers every read (log 15). -/
def Obligations.EveryRunTerminates : Prop :=
  ∀ (s : State) (rest : List Request), s.Inv → s.st = .scanning →
    s.reqs = List.replicate ((s.mem.size - s.pos) / 4 + 1) .step ++ rest →
    (∃ t, runSteps ((s.mem.size - s.pos) / 4 + 1) s = some t ∧ t.st = .done) ∧
    ((responses ((s.mem.size - s.pos) / 4 + 1) s).filter Response.isYield).length ≤ (s.mem.size - s.pos) / 4

/-! ## 10_state.md: the result registers -/

/-- 10 section 5 (of R24) and section 7 (of R27): what the `OUT.*` registers show while `OUT` holds a record, each at its
width. The `OUT.SI.*` registers show the nine fields of a STREAMINFO record and hold no value in an opaque one (also 70
section 3, of R214). That `OUT.H.TCLASS` is shown as a class and not as bits is the model's choice (log 22). -/
def Obligations.OutRegistersShowTheRecord : Prop :=
  ∀ (s : State) (rec : Record), s.out = some rec →
    readReg s .outKind = some (.field 1 (match rec.kind with
      | .opaqueRec => 0
      | .streaminfoRec => 1)) ∧
    readReg s .outHLast = some (.field 1 rec.hdr.last.toNat) ∧
    readReg s .outHTcode = some (.field 7 rec.hdr.tcode.toNat) ∧
    readReg s .outHTclass = some (.cls rec.hdr.tclass) ∧
    readReg s .outHLen = some (.field 24 rec.hdr.len.toNat) ∧
    readReg s .outWarn = some (.field 1 rec.warn.toNat) ∧
    (∀ x, rec.si = some x →
      readReg s .outSiMinblk = some (.field 16 x.minblk.toNat) ∧ readReg s .outSiMaxblk = some (.field 16 x.maxblk.toNat) ∧
      readReg s .outSiMinfrm = some (.field 24 x.minfrm.toNat) ∧ readReg s .outSiMaxfrm = some (.field 24 x.maxfrm.toNat) ∧
      readReg s .outSiRate = some (.field 20 x.rate.toNat) ∧ readReg s .outSiChannels = some (.field 4 x.channels.toNat) ∧
      readReg s .outSiBps = some (.field 6 x.bps.toNat) ∧ readReg s .outSiTotal = some (.field 36 x.total.toNat) ∧
      ∀ i : Fin 16, readReg s (.outSiMd5 i) = some (.field 8 x.md5[i].toNat)) ∧
    (s.Inv → rec.kind = .streaminfoRec → ∃ x, rec.si = some x) ∧
    (s.Inv → rec.kind = .opaqueRec →
      (∀ reg ∈ [Reg.outSiMinblk, .outSiMaxblk, .outSiMinfrm, .outSiMaxfrm, .outSiRate, .outSiChannels, .outSiBps,
        .outSiTotal], readReg s reg = none) ∧ ∀ i : Fin 16, readReg s (.outSiMd5 i) = none)
end

