-- ==== Sys2Proof/Laws/Codec.lean ====
section
/-! SUPPORT. Small lemmas of the function units: the numeric value of each unpacker, the classes by code, spans by their
bytes, and the bytes of an encoded payload. -/

namespace Sys2Proof

/-! ## Unpackers as numbers -/

theorem u16be_toNat (b : Span 2) : (u16be b).toNat = 256 * b[0].toNat + b[1].toNat := by
  have h0 := b[0].isLt
  have h1 := b[1].isLt
  simp only [u16be, BitVec.toNat_or, BitVec.toNat_shiftLeft, BitVec.toNat_setWidth]
  rw [Nat.mod_eq_of_lt (by omega : b[0].toNat < 2 ^ 16), Nat.mod_eq_of_lt (by omega : b[1].toNat < 2 ^ 16),
    Nat.mod_eq_of_lt (by rw [Nat.shiftLeft_eq]; omega),
    ← Nat.shiftLeft_add_eq_or_of_lt (by omega : b[1].toNat < 2 ^ 8), Nat.shiftLeft_eq]
  omega

theorem u24be_toNat (b : Span 3) :
    (u24be b).toNat = 65536 * b[0].toNat + 256 * b[1].toNat + b[2].toNat := by
  have h0 := b[0].isLt
  have h1 := b[1].isLt
  have h2 := b[2].isLt
  simp only [u24be, BitVec.toNat_or, BitVec.toNat_shiftLeft, BitVec.toNat_setWidth]
  rw [Nat.mod_eq_of_lt (by omega : b[0].toNat < 2 ^ 24), Nat.mod_eq_of_lt (by omega : b[1].toNat < 2 ^ 24),
    Nat.mod_eq_of_lt (by omega : b[2].toNat < 2 ^ 24), Nat.mod_eq_of_lt (by rw [Nat.shiftLeft_eq]; omega),
    Nat.mod_eq_of_lt (by rw [Nat.shiftLeft_eq]; omega),
    show b[0].toNat <<< 16 = (b[0].toNat <<< 8) <<< 8 by rw [← Nat.shiftLeft_add], ← Nat.shiftLeft_or_distrib,
    ← Nat.shiftLeft_add_eq_or_of_lt (by omega : b[2].toNat < 2 ^ 8),
    ← Nat.shiftLeft_add_eq_or_of_lt (by omega : b[1].toNat < 2 ^ 8)]
  simp only [Nat.shiftLeft_eq]
  omega

theorem be32_toNat (h : Span 4) :
    (be32 h).toNat = 16777216 * h[0].toNat + 65536 * h[1].toNat + 256 * h[2].toNat + h[3].toNat := by
  have h0 := h[0].isLt
  have h1 := h[1].isLt
  have h2 := h[2].isLt
  have h3 := h[3].isLt
  simp only [be32, BitVec.toNat_append]
  rw [← Nat.shiftLeft_add_eq_or_of_lt (by omega), ← Nat.shiftLeft_add_eq_or_of_lt (by omega),
    ← Nat.shiftLeft_add_eq_or_of_lt (by omega)]
  simp only [Nat.shiftLeft_eq]
  omega

/-! ## Classes by code -/

theorem typeClassify_cases (c : BitVec 7) :
    (c = 0#7 ∧ typeClassify c = .streamInfo) ∨ (c = 1#7 ∧ typeClassify c = .padding) ∨
    (c = 2#7 ∧ typeClassify c = .application) ∨ (c = 3#7 ∧ typeClassify c = .seekTable) ∨
    (c = 4#7 ∧ typeClassify c = .vorbisComment) ∨ (c = 5#7 ∧ typeClassify c = .cuesheet) ∨
    (c = 6#7 ∧ typeClassify c = .picture) ∨ (c = 127#7 ∧ typeClassify c = .invalid) ∨
    (7 ≤ c.toNat ∧ c.toNat ≤ 126 ∧ typeClassify c = .reserved c) := by
  revert c
  decide

/-! ## Spans by their bytes -/

theorem Span.ext2 (b : Span 2) {x y : Byte} (h0 : x = b[0]) (h1 : y = b[1]) : #v[x, y] = b := by
  subst h0 h1
  refine Vector.ext fun i hi => ?_
  rcases i with _ | _ | i <;> first | rfl | omega

theorem Span.ext3 (b : Span 3) {x y z : Byte} (h0 : x = b[0]) (h1 : y = b[1]) (h2 : z = b[2]) : #v[x, y, z] = b := by
  subst h0 h1 h2
  refine Vector.ext fun i hi => ?_
  rcases i with _ | _ | _ | i <;> first | rfl | omega

theorem Span.ext4 (b : Span 4) {x y z w : Byte} (h0 : x = b[0]) (h1 : y = b[1]) (h2 : z = b[2]) (h3 : w = b[3]) :
    #v[x, y, z, w] = b := by
  subst h0 h1 h2 h3
  refine Vector.ext fun i hi => ?_
  rcases i with _ | _ | _ | _ | i <;> first | rfl | omega

/-! ## The bytes of an encoded payload (R135) -/

section
variable (r : SiRaw)

theorem siPack_byte0 : (siPack r)[0] = r.minblk.extractLsb' 8 8 := rfl
theorem siPack_byte1 : (siPack r)[1] = r.minblk.extractLsb' 0 8 := rfl
theorem siPack_byte2 : (siPack r)[2] = r.maxblk.extractLsb' 8 8 := rfl
theorem siPack_byte3 : (siPack r)[3] = r.maxblk.extractLsb' 0 8 := rfl
theorem siPack_byte4 : (siPack r)[4] = r.minfrm.extractLsb' 16 8 := rfl
theorem siPack_byte5 : (siPack r)[5] = r.minfrm.extractLsb' 8 8 := rfl
theorem siPack_byte6 : (siPack r)[6] = r.minfrm.extractLsb' 0 8 := rfl
theorem siPack_byte7 : (siPack r)[7] = r.maxfrm.extractLsb' 16 8 := rfl
theorem siPack_byte8 : (siPack r)[8] = r.maxfrm.extractLsb' 8 8 := rfl
theorem siPack_byte9 : (siPack r)[9] = r.maxfrm.extractLsb' 0 8 := rfl
theorem siPack_byte10 : (siPack r)[10] = r.rate.extractLsb' 12 8 := rfl
theorem siPack_byte11 : (siPack r)[11] = r.rate.extractLsb' 4 8 := rfl
theorem siPack_byte12 : (siPack r)[12] = (r.rate.extractLsb' 0 4 ++ r.chan ++ r.bps.extractLsb' 4 1 : Byte) := rfl
theorem siPack_byte13 : (siPack r)[13] = (r.bps.extractLsb' 0 4 ++ r.total.extractLsb' 32 4 : Byte) := rfl
theorem siPack_byte14 : (siPack r)[14] = r.total.extractLsb' 24 8 := rfl
theorem siPack_byte15 : (siPack r)[15] = r.total.extractLsb' 16 8 := rfl
theorem siPack_byte16 : (siPack r)[16] = r.total.extractLsb' 8 8 := rfl
theorem siPack_byte17 : (siPack r)[17] = r.total.extractLsb' 0 8 := rfl
theorem siPack_byte18 : (siPack r)[18] = r.md5[0] := rfl
theorem siPack_byte19 : (siPack r)[19] = r.md5[1] := rfl
theorem siPack_byte20 : (siPack r)[20] = r.md5[2] := rfl
theorem siPack_byte21 : (siPack r)[21] = r.md5[3] := rfl
theorem siPack_byte22 : (siPack r)[22] = r.md5[4] := rfl
theorem siPack_byte23 : (siPack r)[23] = r.md5[5] := rfl
theorem siPack_byte24 : (siPack r)[24] = r.md5[6] := rfl
theorem siPack_byte25 : (siPack r)[25] = r.md5[7] := rfl
theorem siPack_byte26 : (siPack r)[26] = r.md5[8] := rfl
theorem siPack_byte27 : (siPack r)[27] = r.md5[9] := rfl
theorem siPack_byte28 : (siPack r)[28] = r.md5[10] := rfl
theorem siPack_byte29 : (siPack r)[29] = r.md5[11] := rfl
theorem siPack_byte30 : (siPack r)[30] = r.md5[12] := rfl
theorem siPack_byte31 : (siPack r)[31] = r.md5[13] := rfl
theorem siPack_byte32 : (siPack r)[32] = r.md5[14] := rfl
theorem siPack_byte33 : (siPack r)[33] = r.md5[15] := rfl

end

@[simp] theorem siMd5_getElem (p : Span 34) (i : Fin 16) : (siMd5 p)[i] = p[18 + i.val] := by simp [siMd5]

end Sys2Proof
end

