-- ==== Sys2Proof/Laws/Memory.lean ====
section
/-! SUPPORT. The stream's laws: a byte set reads back, every other byte stays, and every operation keeps the canonical form. -/

namespace Sys2Proof.Machine

@[simp] theorem lookupCell_nil (a : Nat) : lookupCell [] a = Memory.fill := rfl

theorem lookupCell_cons (c : Nat) (v : Byte) (t : List Host.Cell) (a : Nat) :
    lookupCell ((c, v) :: t) a = if a = c then v else lookupCell t a := rfl

/-- Below every listed address nothing is listed. -/
theorem lookupCell_below {cells : List Host.Cell} {a : Nat} (h : ∀ c ∈ cells, a < c.1) :
    lookupCell cells a = Memory.fill := by
  induction cells with
  | nil => rfl
  | cons c t ih =>
    obtain ⟨k, v⟩ := c
    have hk : a < k := h (k, v) (by simp)
    rw [lookupCell_cons, if_neg (by omega)]
    exact ih fun c hc => h c (List.mem_cons_of_mem _ hc)

theorem lookupCell_insertCell {cells : List Host.Cell} (hs : cells.Pairwise fun c d => c.1 < d.1)
    (a : Nat) (b : Byte) (x : Nat) :
    lookupCell (insertCell cells a b) x = if x = a then b else lookupCell cells x := by
  induction cells with
  | nil =>
    by_cases hb : b = Memory.fill <;> by_cases hx : x = a <;> simp [insertCell, hb, hx, lookupCell_cons]
  | cons c t ih =>
    obtain ⟨k, v⟩ := c
    obtain ⟨hk, ht⟩ := List.pairwise_cons.1 hs
    have hbelow : ∀ y, y ≤ k → lookupCell t y = Memory.fill := fun y hy =>
      lookupCell_below fun c hc => by have := hk c hc; simp only at this; omega
    rcases Nat.lt_trichotomy a k with h1 | h1 | h1
    · have hne : k ≠ a := by omega
      by_cases hb : b = Memory.fill
      · by_cases hx : x = a
        · simp [insertCell, h1, hb, hx, lookupCell_cons, hbelow a (by omega), hne.symm]
        · simp [insertCell, h1, hb, hx]
      · by_cases hx : x = a <;> simp [insertCell, h1, hb, hx, lookupCell_cons]
    · subst h1
      by_cases hb : b = Memory.fill
      · by_cases hx : x = a
        · simp [insertCell, hb, hx, hbelow a (by omega)]
        · simp [insertCell, hb, hx, lookupCell_cons]
      · by_cases hx : x = a <;> simp [insertCell, hb, hx, lookupCell_cons]
    · have h2 : ¬a < k := by omega
      have h3 : a ≠ k := by omega
      simp only [insertCell, h2, h3, if_false]
      rw [lookupCell_cons, ih ht, lookupCell_cons]
      by_cases hx : x = k
      · simp [hx, h3.symm]
      · simp [hx]

/-- Every address of a changed list is the changed one or was listed before. -/
theorem mem_insertCell {cells : List Host.Cell} {a : Nat} {b : Byte} {c : Host.Cell}
    (h : c ∈ insertCell cells a b) : (c = (a, b) ∧ b ≠ Memory.fill) ∨ c ∈ cells := by
  induction cells with
  | nil =>
    simp only [insertCell] at h
    split_ifs at h with hb <;> simp_all
  | cons d t ih =>
    obtain ⟨k, v⟩ := d
    simp only [insertCell] at h
    split_ifs at h <;> simp_all <;> tauto

theorem insertCell_sorted {cells : List Host.Cell} (hs : cells.Pairwise fun c d => c.1 < d.1)
    (a : Nat) (b : Byte) : (insertCell cells a b).Pairwise fun c d => c.1 < d.1 := by
  induction cells with
  | nil => simp only [insertCell]; split_ifs <;> simp
  | cons c t ih =>
    obtain ⟨k, v⟩ := c
    obtain ⟨hk, ht⟩ := List.pairwise_cons.1 hs
    simp only [insertCell]
    split_ifs with h1 h2 h3 h4
    · exact hs
    · refine List.pairwise_cons.2 ⟨fun d hd => ?_, hs⟩
      rcases List.mem_cons.1 hd with rfl | hd
      · exact h1
      · have := hk d hd; simp only at this ⊢; omega
    · exact ht
    · subst h3; exact List.pairwise_cons.2 ⟨hk, ht⟩
    · refine List.pairwise_cons.2 ⟨fun d hd => ?_, ih ht⟩
      rcases mem_insertCell hd with ⟨rfl, -⟩ | hd
      · simp only; omega
      · exact hk d hd

/-- Setting a byte keeps the canonical form. -/
theorem Memory.set_wf {m : Memory} (h : m.wf) (a : Nat) (b : Byte) : (m.set a b).wf := by
  refine ⟨insertCell_sorted h.1 a b, fun c hc => ?_⟩
  rcases mem_insertCell hc with ⟨rfl, hb⟩ | hc
  · exact ⟨hb, by simp [Memory.set]⟩
  · have := h.2 c hc
    exact ⟨this.1, by simp only [Memory.set]; omega⟩

/-- A byte that was set reads back. -/
theorem Memory.byte_set_same {m : Memory} (h : m.wf) (a : Nat) (b : Byte) : (m.set a b).byte a = b := by
  simp [Memory.set, Memory.byte, lookupCell_insertCell h.1]

/-- Setting a byte leaves every other byte alone. -/
theorem Memory.byte_set_other {m : Memory} (h : m.wf) {a x : Nat} (b : Byte) (hx : x ≠ a) :
    (m.set a b).byte x = m.byte x := by
  simp [Memory.set, Memory.byte, lookupCell_insertCell h.1, hx]

@[simp] theorem Memory.set_size (m : Memory) (a : Nat) (b : Byte) : (m.set a b).size = max m.size (a + 1) := rfl

/-- Laying bytes keeps the canonical form. -/
theorem Memory.load_wf {m : Memory} (h : m.wf) (a : Nat) (bs : List Byte) : (m.load a bs).wf := by
  induction bs generalizing m a with
  | nil => exact h
  | cons b bs ih => exact ih (Memory.set_wf h a b) (a + 1)

/-- Laying bytes from `a` on leaves the bytes below `a` alone. -/
theorem Memory.byte_load_below {m : Memory} (h : m.wf) {a x : Nat} (bs : List Byte) (hx : x < a) :
    (m.load a bs).byte x = m.byte x := by
  induction bs generalizing m a with
  | nil => rfl
  | cons b bs ih =>
    rw [Memory.load, ih (Memory.set_wf h a b) (by omega), Memory.byte_set_other h b (by omega)]

/-- Laid bytes read back. -/
theorem Memory.byte_load {m : Memory} (h : m.wf) (a : Nat) (bs : List Byte) (i : Nat) (hi : i < bs.length) :
    (m.load a bs).byte (a + i) = bs[i] := by
  induction bs generalizing m a i with
  | nil => simp at hi
  | cons b bs ih =>
    cases i with
    | zero =>
      rw [Memory.load, Memory.byte_load_below (Memory.set_wf h a b) bs (by omega)]
      exact Memory.byte_set_same h a b
    | succ j =>
      have := ih (Memory.set_wf h a b) (a + 1) j (by simpa using hi)
      rw [Memory.load, show a + (j + 1) = a + 1 + j by omega, this]
      rfl

theorem Memory.load_size (m : Memory) (a : Nat) (bs : List Byte) (hb : bs ≠ []) :
    (m.load a bs).size = max m.size (a + bs.length) := by
  induction bs generalizing m a with
  | nil => exact absurd rfl hb
  | cons b bs ih =>
    rw [Memory.load]
    by_cases hn : bs = []
    · simp [hn, Memory.load]
    · rw [ih _ _ hn, Memory.set_size, List.length_cons]; omega

/-- Zeroing a range keeps the canonical form. -/
theorem Memory.zero_wf {m : Memory} (h : m.wf) (a n : Nat) : (m.zero a n).wf := by
  refine ⟨h.1.filter _, fun c hc => ?_⟩
  have := h.2 c (List.mem_of_mem_filter hc)
  exact ⟨this.1, by simp only [Memory.zero]; omega⟩

theorem Memory.empty_wf : ({ cells := [], size := 0 } : Memory).wf := by decide

/-- A stream built from a list of bytes is in the canonical form. -/
theorem Memory.ofBytes_wf (bs : List Byte) : (Memory.ofBytes bs).wf := Memory.load_wf Memory.empty_wf 0 bs

/-- The stream of a list of bytes holds them in order (R40). -/
theorem Memory.byte_ofBytes (bs : List Byte) (i : Nat) (hi : i < bs.length) :
    (Memory.ofBytes bs).byte i = bs[i] := by
  have := Memory.byte_load Memory.empty_wf 0 bs i hi
  rwa [Nat.zero_add] at this

/-- The stream of a list of bytes has its length. -/
theorem Memory.ofBytes_size (bs : List Byte) : (Memory.ofBytes bs).size = bs.length := by
  by_cases hb : bs = []
  · subst hb; rfl
  · rw [Memory.ofBytes, Memory.load_size _ _ _ hb]; simp

@[simp] theorem Memory.span_getElem (m : Memory) (a n i : Nat) (hi : i < n) :
    (m.span a n)[i] = m.byte (a + i) := by
  simp [Memory.span]

end Sys2Proof.Machine
end

