-- ==== Sys2Proof/Laws/State.lean ====
section
/-! SUPPORT. One lemma per field per update of the state, and how the last flag acts. -/

namespace Sys2Proof.Machine

@[simp] theorem afterYield_true (st : SeqState) : afterYield true st = .done := rfl
@[simp] theorem afterYield_false (st : SeqState) : afterYield false st = st := rfl

@[simp] theorem State.respond_st (s : State) (r : Response) : (s.respond r).st = s.st := rfl
@[simp] theorem State.respond_err (s : State) (r : Response) : (s.respond r).err = s.err := rfl
@[simp] theorem State.respond_einfo (s : State) (r : Response) : (s.respond r).einfo = s.einfo := rfl
@[simp] theorem State.respond_pos (s : State) (r : Response) : (s.respond r).pos = s.pos := rfl
@[simp] theorem State.respond_out (s : State) (r : Response) : (s.respond r).out = s.out := rfl
@[simp] theorem State.respond_cfg (s : State) (r : Response) : (s.respond r).cfg = s.cfg := rfl
@[simp] theorem State.respond_mem (s : State) (r : Response) : (s.respond r).mem = s.mem := rfl
@[simp] theorem State.respond_reqs (s : State) (r : Response) : (s.respond r).reqs = s.reqs := rfl
@[simp] theorem State.respond_resp (s : State) (r : Response) : (s.respond r).resp = some r := rfl

@[simp] theorem State.raise_st (s : State) (k : FailKind) (info : BitVec 32) : (s.raise k info).st = .done := rfl
@[simp] theorem State.raise_err (s : State) (k : FailKind) (info : BitVec 32) : (s.raise k info).err = .failed k := rfl
@[simp] theorem State.raise_einfo (s : State) (k : FailKind) (info : BitVec 32) : (s.raise k info).einfo = info := rfl
@[simp] theorem State.raise_pos (s : State) (k : FailKind) (info : BitVec 32) : (s.raise k info).pos = s.pos := rfl
@[simp] theorem State.raise_out (s : State) (k : FailKind) (info : BitVec 32) : (s.raise k info).out = none := rfl
@[simp] theorem State.raise_cfg (s : State) (k : FailKind) (info : BitVec 32) : (s.raise k info).cfg = s.cfg := rfl
@[simp] theorem State.raise_mem (s : State) (k : FailKind) (info : BitVec 32) : (s.raise k info).mem = s.mem := rfl
@[simp] theorem State.raise_reqs (s : State) (k : FailKind) (info : BitVec 32) : (s.raise k info).reqs = s.reqs := rfl
@[simp] theorem State.raise_resp (s : State) (k : FailKind) (info : BitVec 32) : (s.raise k info).resp = some (.failed k info) := rfl

@[simp] theorem State.yieldRec_st (s : State) (r : Record) : (s.yieldRec r).st = afterYield r.hdr.last s.st := rfl
@[simp] theorem State.yieldRec_err (s : State) (r : Record) : (s.yieldRec r).err = s.err := rfl
@[simp] theorem State.yieldRec_einfo (s : State) (r : Record) : (s.yieldRec r).einfo = s.einfo := rfl
@[simp] theorem State.yieldRec_pos (s : State) (r : Record) : (s.yieldRec r).pos = s.pos := rfl
@[simp] theorem State.yieldRec_out (s : State) (r : Record) : (s.yieldRec r).out = some r := rfl
@[simp] theorem State.yieldRec_cfg (s : State) (r : Record) : (s.yieldRec r).cfg = s.cfg := rfl
@[simp] theorem State.yieldRec_mem (s : State) (r : Record) : (s.yieldRec r).mem = s.mem := rfl
@[simp] theorem State.yieldRec_reqs (s : State) (r : Record) : (s.yieldRec r).reqs = s.reqs := rfl
@[simp] theorem State.yieldRec_resp (s : State) (r : Record) : (s.yieldRec r).resp = some (.yielded r) := rfl

@[simp] theorem State.doReset_st (s : State) : (s.doReset).st = .init := rfl
@[simp] theorem State.doReset_err (s : State) : (s.doReset).err = .none := rfl
@[simp] theorem State.doReset_einfo (s : State) : (s.doReset).einfo = 0#32 := rfl
@[simp] theorem State.doReset_pos (s : State) : (s.doReset).pos = 0 := rfl
@[simp] theorem State.doReset_out (s : State) : (s.doReset).out = none := rfl
@[simp] theorem State.doReset_cfg (s : State) : (s.doReset).cfg = s.cfg := rfl
@[simp] theorem State.doReset_mem (s : State) : (s.doReset).mem = s.mem := rfl
@[simp] theorem State.doReset_reqs (s : State) : (s.doReset).reqs = s.reqs := rfl
@[simp] theorem State.doReset_resp (s : State) : (s.doReset).resp = some .resetDone := rfl

end Sys2Proof.Machine
end

