-- ==== Sys2Proof/Laws/Ops.lean ====
section
/-! SUPPORT. What each shared operation can do, said once: `MemRead`, the opaque and the unsupported block, an
instruction, a transaction. -/

namespace Sys2Proof.Machine

theorem memRead_ok {s : State} {n : Nat} (h : n = 0 ∨ s.pos + n ≤ s.mem.size) :
    memRead s n = some (s.mem.span s.pos n, { s with pos := s.pos + n }) := if_pos h

theorem memRead_fail {s : State} {n : Nat} (h0 : n ≠ 0) (h : s.mem.size < s.pos + n) : memRead s n = none :=
  if_neg (by omega)

/-- A read that succeeds found all its bytes and moved the cursor past them; nothing else changed. -/
theorem memRead_some {s t : State} {n : Nat} {p : Span n} (h : memRead s n = some (p, t)) :
    (n = 0 ∨ s.pos + n ≤ s.mem.size) ∧ p = s.mem.span s.pos n ∧ t = { s with pos := s.pos + n } := by
  unfold memRead at h
  split_ifs at h with hn
  simp only [Option.some.injEq, Prod.mk.injEq] at h
  exact ⟨hn, h.1.symm, h.2.symm⟩

/-- A read fails only when a byte it asks for does not exist. -/
theorem memRead_none {s : State} {n : Nat} (h : memRead s n = none) : n ≠ 0 ∧ s.mem.size < s.pos + n := by
  unfold memRead at h
  split_ifs at h with hn
  omega

/-- A read changes nothing but the cursor. -/
theorem memRead_frame {s t : State} {n : Nat} {p : Span n} (h : memRead s n = some (p, t)) :
    t.st = s.st ∧ t.err = s.err ∧ t.einfo = s.einfo ∧ t.out = s.out ∧ t.cfg = s.cfg ∧ t.mem = s.mem ∧
      t.reqs = s.reqs ∧ t.resp = s.resp := by
  obtain ⟨-, -, rfl⟩ := memRead_some h
  simp

theorem opaqueBlock_ok {hdr : BlockHeader} {warn : Bool} {s : State}
    (h : hdr.len.toNat = 0 ∨ s.pos + hdr.len.toNat ≤ s.mem.size) :
    opaqueBlock hdr warn s =
      .next (({ s with pos := s.pos + hdr.len.toNat } : State).yieldRec (record .opaqueRec hdr warn none)) := by
  rw [opaqueBlock, memRead_ok h]

theorem opaqueBlock_fail {hdr : BlockHeader} {warn : Bool} {s : State} (h0 : hdr.len.toNat ≠ 0)
    (h : s.mem.size < s.pos + hdr.len.toNat) :
    opaqueBlock hdr warn s = .next (s.raise .truncatedRead (countInfo hdr.len.toNat)) := by
  rw [opaqueBlock, memRead_fail h0 h]

/-- The two things an opaque block can do. -/
theorem opaqueBlock_cases {hdr : BlockHeader} {warn : Bool} {s t : State} (h : opaqueBlock hdr warn s = .next t) :
    ((hdr.len.toNat = 0 ∨ s.pos + hdr.len.toNat ≤ s.mem.size) ∧
        t = ({ s with pos := s.pos + hdr.len.toNat } : State).yieldRec (record .opaqueRec hdr warn none)) ∨
      (hdr.len.toNat ≠ 0 ∧ s.mem.size < s.pos + hdr.len.toNat ∧
        t = s.raise .truncatedRead (countInfo hdr.len.toNat)) := by
  by_cases hn : hdr.len.toNat = 0 ∨ s.pos + hdr.len.toNat ≤ s.mem.size
  · rw [opaqueBlock_ok hn] at h
    exact .inl ⟨hn, by injection h with h; exact h.symm⟩
  · rw [opaqueBlock_fail (by omega) (by omega)] at h
    exact .inr ⟨by omega, by omega, by injection h with h; exact h.symm⟩

/-- The record an admitted block yields: of STREAMINFO kind with the decoded payload, or the header only. -/
def blockRecord (s : State) (h : BlockHeader) : Record :=
  match h.tclass with
  | .streamInfo => record .streaminfoRec h false (some (siDecode (s.mem.span s.pos 34)))
  | .reserved _ => record .opaqueRec h true none
  | .invalid => record .opaqueRec h true none
  | _ => record .opaqueRec h false none

/-- All an instruction can do: a failure entry, a yield after its payload, the start of a chain, or a unit's answer. -/
theorem exec_cases {i : Instr} {s t : State} (h : exec i s = .next t) :
    (∃ k info, t = s.raise k info) ∨
    (∃ hdr, i.header = some hdr ∧ (hdr.len.toNat = 0 ∨ s.pos + hdr.len.toNat ≤ s.mem.size) ∧
      t = ({ s with pos := s.pos + hdr.len.toNat } : State).yieldRec (blockRecord s hdr)) ∨
    (i = .magic s.cfg.magic ∧ t = { s with st := .scanning, resp := some .started }) ∨
    (∃ raw, i = .siPayload raw ∧ t = s.respond (.unit (.streamInfo (siAssemble raw)))) := by
  have opq : ∀ {hdr : BlockHeader} {warn : Bool}, opaqueBlock hdr warn s = .next t → i.header = some hdr →
      blockRecord s hdr = record .opaqueRec hdr warn none →
      (∃ k info, t = s.raise k info) ∨
      (∃ hdr, i.header = some hdr ∧ (hdr.len.toNat = 0 ∨ s.pos + hdr.len.toNat ≤ s.mem.size) ∧
        t = ({ s with pos := s.pos + hdr.len.toNat } : State).yieldRec (blockRecord s hdr)) := by
    intro hdr warn ho hi hb
    rcases opaqueBlock_cases ho with ⟨hn, ht⟩ | ⟨-, -, ht⟩
    · exact .inr ⟨hdr, hi, hn, by rw [hb]; exact ht⟩
    · exact .inl ⟨_, _, ht⟩
  have lift : ∀ {A B C D : Prop}, A ∨ B → A ∨ B ∨ C ∨ D := by tauto
  cases i with
  | streaminfo last =>
    simp only [exec, execStreaminfo] at h
    by_cases hn : 34 = 0 ∨ s.pos + 34 ≤ s.mem.size
    · rw [memRead_ok hn] at h
      injection h with h
      exact .inr (.inl ⟨_, rfl, hn, h.symm⟩)
    · rw [memRead_fail (by omega) (by omega)] at h
      injection h with h
      exact .inl ⟨_, _, h.symm⟩
  | streaminfoBadlen last len => injection h with h; exact .inl ⟨_, _, h.symm⟩
  | padding last len => exact lift (opq h rfl rfl)
  | application last len => exact lift (opq h rfl rfl)
  | seektable last len => exact lift (opq h rfl rfl)
  | vorbisComment last len => exact lift (opq h rfl rfl)
  | cuesheet last len => exact lift (opq h rfl rfl)
  | picture last len => exact lift (opq h rfl rfl)
  | reserved last tcode len =>
    simp only [exec, execReserved, unsupportedBlock] at h
    cases hp : s.cfg.policy with
    | abort => rw [hp] at h; injection h with h; exact .inl ⟨_, _, h.symm⟩
    | skip => rw [hp] at h; exact lift (opq h rfl rfl)
  | invalid last len =>
    simp only [exec, execInvalid, unsupportedBlock] at h
    cases hp : s.cfg.policy with
    | abort => rw [hp] at h; injection h with h; exact .inl ⟨_, _, h.symm⟩
    | skip => rw [hp] at h; exact lift (opq h rfl rfl)
  | magic marker =>
    simp only [exec, execMagic] at h
    split_ifs at h with hm
    · injection h with h
      exact .inr (.inr (.inl ⟨by rw [hm], h.symm⟩))
    · injection h with h
      exact .inl ⟨_, _, h.symm⟩
  | siPayload raw => injection h with h; exact .inr (.inr (.inr ⟨raw, rfl, h.symm⟩))

/-- What `START` can do: refuse outside `INIT`, fail its read, or run the marker it read. -/
theorem commandStart_cases (s : State) :
    (s.st ≠ .init ∧ commandStart s = .next (s.respond .refused)) ∨
    (s.st = .init ∧ s.mem.size < s.pos + 4 ∧ commandStart s = .next (s.raise .truncatedRead (countInfo 4))) ∨
    (s.st = .init ∧ s.pos + 4 ≤ s.mem.size ∧
      commandStart s = exec (decodeMarker (s.mem.span s.pos 4)) { s with pos := s.pos + 4 }) := by
  unfold commandStart
  cases hst : s.st with
  | init =>
    by_cases hn : s.pos + 4 ≤ s.mem.size
    · exact .inr (.inr ⟨rfl, hn, by simp only [memRead_ok (.inr hn), hst]⟩)
    · exact .inr (.inl ⟨rfl, by omega, by rw [memRead_fail (by omega) (by omega)]⟩)
  | scanning => exact .inl ⟨by simp, rfl⟩
  | done => exact .inl ⟨by simp, rfl⟩

/-- What `STEP` can do: refuse in `INIT`, answer `End` in `DONE`, fail its header read, or run the header it read. -/
theorem commandStep_cases (s : State) :
    (s.st = .init ∧ commandStep s = .next (s.respond .refused)) ∨
    (s.st = .done ∧ commandStep s = .next (s.respond .ended)) ∨
    (s.st = .scanning ∧ s.mem.size < s.pos + 4 ∧ commandStep s = .next (s.raise .truncatedRead (countInfo 4))) ∨
    (s.st = .scanning ∧ s.pos + 4 ≤ s.mem.size ∧
      commandStep s = exec (decodeHeader s.cfg.layout (s.mem.span s.pos 4)) { s with pos := s.pos + 4 }) := by
  unfold commandStep
  cases hst : s.st with
  | init => exact .inl ⟨rfl, rfl⟩
  | done => exact .inr (.inl ⟨rfl, rfl⟩)
  | scanning =>
    by_cases hn : s.pos + 4 ≤ s.mem.size
    · exact .inr (.inr (.inr ⟨rfl, hn, by simp only [memRead_ok (.inr hn), hst]⟩))
    · exact .inr (.inr (.inl ⟨rfl, by omega, by rw [memRead_fail (by omega) (by omega)]⟩))

theorem Span.ofList_some {n : Nat} {bs : List Byte} {p : Span n} (h : Span.ofList n bs = some p) : p.toList = bs := by
  unfold Span.ofList at h
  split_ifs at h with hn
  simp only [Option.some.injEq] at h
  subst h
  simp [Vector.toList]

theorem Span.ofList_none_iff {n : Nat} {bs : List Byte} : Span.ofList n bs = none ↔ bs.length ≠ n := by
  unfold Span.ofList
  split_ifs with hn <;> simp [hn]

theorem Span.ofList_toList {n : Nat} (p : Span n) : Span.ofList n p.toList = some p := by
  unfold Span.ofList
  rw [dif_pos (by simp)]
  rfl

/-- A direct application of a unit answers on the result port, or is refused for its length. -/
theorem applyUnit_cases (call : UnitCall) (s : State) :
    (∃ r, applyUnit call s = .next (s.respond (.unit r))) ∨ applyUnit call s = .refused .preconditionViolation := by
  cases call with
  | u16be span =>
    simp only [applyUnit]
    cases Span.ofList 2 span with
    | none => exact .inr rfl
    | some b => exact .inl ⟨_, rfl⟩
  | u24be span =>
    simp only [applyUnit]
    cases Span.ofList 3 span with
    | none => exact .inr rfl
    | some b => exact .inl ⟨_, rfl⟩
  | hdrDecode span =>
    simp only [applyUnit]
    cases Span.ofList 4 span with
    | none => exact .inr rfl
    | some b => exact .inl ⟨_, rfl⟩
  | typeClassify tcode => exact .inl ⟨_, rfl⟩
  | siDecode span =>
    left
    simp only [applyUnit, decode]
    cases Span.ofList 34 span with
    | none => exact ⟨_, rfl⟩
    | some p => exact ⟨_, rfl⟩

end Sys2Proof.Machine
end

