-- ==== Sys2Proof/Laws/PerInstr.lean ====
section
/-! SUPPORT. Facts said of every instruction, one lemma per constructor. -/

namespace Sys2Proof.Laws.EncodeLength

/-- An encoding is as long as its format. -/
def Statement (i : Instr) : Prop := ∀ layout, (encode layout i).length = i.format.size

theorem streaminfo (last : Bool) : Statement (.streaminfo last) := fun _ => by simp [encode, Instr.format, Format.size]
theorem streaminfoBadlen (last : Bool) (len : BitVec 24) : Statement (.streaminfoBadlen last len) :=
  fun _ => by simp [encode, Instr.format, Format.size]
theorem padding (last : Bool) (len : BitVec 24) : Statement (.padding last len) :=
  fun _ => by simp [encode, Instr.format, Format.size]
theorem application (last : Bool) (len : BitVec 24) : Statement (.application last len) :=
  fun _ => by simp [encode, Instr.format, Format.size]
theorem seektable (last : Bool) (len : BitVec 24) : Statement (.seektable last len) :=
  fun _ => by simp [encode, Instr.format, Format.size]
theorem vorbisComment (last : Bool) (len : BitVec 24) : Statement (.vorbisComment last len) :=
  fun _ => by simp [encode, Instr.format, Format.size]
theorem cuesheet (last : Bool) (len : BitVec 24) : Statement (.cuesheet last len) :=
  fun _ => by simp [encode, Instr.format, Format.size]
theorem picture (last : Bool) (len : BitVec 24) : Statement (.picture last len) :=
  fun _ => by simp [encode, Instr.format, Format.size]
theorem reserved (last : Bool) (tcode : BitVec 7) (len : BitVec 24) : Statement (.reserved last tcode len) :=
  fun _ => by simp [encode, Instr.format, Format.size]
theorem invalid (last : Bool) (len : BitVec 24) : Statement (.invalid last len) :=
  fun _ => by simp [encode, Instr.format, Format.size]
theorem magic (marker : Span 4) : Statement (.magic marker) := fun _ => by simp [encode, Instr.format, Format.size]
theorem siPayload (raw : SiRaw) : Statement (.siPayload raw) := fun _ => by simp [encode, Instr.format, Format.size]

end Sys2Proof.Laws.EncodeLength
end

