-- ==== Sys2Proof/Laws/Step.lean ====
section
/-! SUPPORT. What a step is, by the transaction presented, and what bytes in the stream mean for a read. -/

namespace Sys2Proof.Machine

theorem step_idle {s : State} (h : s.reqs = []) : step s = .next s := by simp [step, runNext, h]

theorem step_serve {s : State} {r : Request} {rest : List Request} (h : s.reqs = r :: rest) :
    step s = serve r { s with reqs := rest } := by simp [step, runNext, h]

/-- A step is idle, or serves the transaction at the head of the caller's script. -/
theorem step_cases {s t : State} (h : step s = .next t) :
    (s.reqs = [] ∧ t = s) ∨ ∃ r rest, s.reqs = r :: rest ∧ serve r { s with reqs := rest } = .next t := by
  cases hr : s.reqs with
  | nil => rw [step_idle hr] at h; injection h with h; exact .inl ⟨rfl, h.symm⟩
  | cons r rest => rw [step_serve hr] at h; exact .inr ⟨r, rest, rfl, h⟩

theorem Memory.read_some {m : Memory} {a : Nat} {b : Byte} (h : m.read a = some b) : a < m.size ∧ m.byte a = b := by
  unfold Memory.read at h
  split_ifs at h with ha
  exact ⟨ha, by simpa using h⟩

theorem Memory.read_of_lt {m : Memory} {a : Nat} (h : a < m.size) : m.read a = some (m.byte a) := if_pos h

/-- Bytes that stand in the stream are there to be read, all of them. -/
theorem bytesAt_size {m : Memory} {a : Nat} {bs : List Byte} (h : bytesAt m a bs) (hb : bs ≠ []) :
    a + bs.length ≤ m.size := by
  have hl : 0 < bs.length := List.length_pos_of_ne_nil hb
  have := (Memory.read_some (h (bs.length - 1) (by omega))).1
  omega

/-- The span a read returns is the bytes that stand there. -/
theorem span_of_bytesAt {m : Memory} {a n : Nat} {p : Span n} (h : bytesAt m a p.toList) : m.span a n = p := by
  refine Vector.ext fun i hi => ?_
  have hb := (Memory.read_some (h i (by simpa using hi))).2
  rw [Memory.span_getElem, hb]
  simp

end Sys2Proof.Machine
end

