-- ==== Sys2Proof/Tests/Slice0.lean ====
section
/-! SUPPORT. Tests of one operation or one step each, and a witness for the hypotheses of every obligation. Expected values are
from spec/: the worked examples of the rules and the vectors of 95_test_vectors.md, whose number each test's name or comment
gives. -/

namespace Sys2Proof.Tests

open Sys2Proof.Machine

/-! ## Helpers -/

/-- The configuration of R5, under `ABORT`. -/
def docAbort : Config := { layout := .docLsbFlag, policy := .abort, magic := #v[0x66, 0x4C, 0x61, 0x43] }

/-- The configuration of R5, under `SKIP`. -/
def docSkip : Config := { docAbort with policy := .skip }

/-- The other layout, under `SKIP`. -/
def flacSkip : Config := { docSkip with layout := .flacMsbFlag }

/-- A core in a state, at a cursor, before a stream, with one transaction presented. -/
def core (cfg : Config) (st : SeqState) (pos : Nat) (stream : List Byte) (reqs : List Request) : State :=
  { State.reset with st := st, pos := pos, cfg := cfg, mem := Memory.ofBytes stream, reqs := reqs }

/-- The tuple of R20, and the answer. -/
structure View where
  st    : SeqState
  err   : Err
  einfo : BitVec 32
  pos   : Nat
  out   : Option Record
  resp  : Option Response
deriving DecidableEq, Repr

/-- What a step that goes on leaves. -/
def view : Result → Option View
  | .next t => some ⟨t.st, t.err, t.einfo, t.pos, t.out, t.resp⟩
  | _ => none

/-- A block yielded: nothing recorded, the record in `OUT` and on the result port. -/
abbrev yields (o : Result) (st : SeqState) (pos : Nat) (r : Record) : Prop :=
  view o = some ⟨st, .none, 0#32, pos, some r, some (.yielded r)⟩

/-- A failure taken: recorded, reported, and `OUT` empty. -/
abbrev fails (o : Result) (k : FailKind) (info : BitVec 32) (pos : Nat) : Prop :=
  view o = some ⟨.done, .failed k, info, pos, none, some (.failed k info)⟩

/-- An opaque record. -/
def opaqueRecord (last : Bool) (tcode : BitVec 7) (cls : TClass) (len : BitVec 24) (warn : Bool) : Record :=
  { kind := .opaqueRec, hdr := { last := last, tcode := tcode, tclass := cls, len := len }, warn := warn, si := none }

/-- `MAGIC` of R5. -/
def marker : List Byte := [0x66, 0x4C, 0x61, 0x43]

/-- The source's payload `T` (V2). -/
def payloadT : Span 34 :=
  #v[0x10, 0x00, 0x10, 0x00, 0x00, 0x00, 0x10, 0x00, 0x37, 0xCC, 0x0A, 0xC4, 0x42, 0xF0, 0x00, 0xA1, 0xEB, 0xB4,
    0x86, 0xE4, 0x0B, 0x48, 0x50, 0xB6, 0x57, 0x0B, 0x29, 0x5A, 0x5B, 0x26, 0x86, 0x8F, 0x72, 0x43]

/-- The nine fields of `T` (V2). -/
def fieldsT : StreamInfo :=
  { minblk := 4096, maxblk := 4096, minfrm := 16, maxfrm := 14284, rate := 44100, channels := 2, bps := 16,
    total := 10611636,
    md5 := #v[0x86, 0xE4, 0x0B, 0x48, 0x50, 0xB6, 0x57, 0x0B, 0x29, 0x5A, 0x5B, 0x26, 0x86, 0x8F, 0x72, 0x43] }

/-- The all-zero payload `Z`, with bytes 12 and 13 as given (V20 to V28). -/
def payloadZ (b12 b13 : Byte) : Span 34 := ((Vector.replicate 34 0#8).set 12 b12).set 13 b13

/-! ## Well-formedness: one ill-formed term for each check -/

theorem test_wellFormed_refuses_badlen_34 : (Instr.streaminfoBadlen true 34#24).wellFormed = false := by decide
theorem test_wellFormed_refuses_reserved_6 : (Instr.reserved false 6#7 0#24).wellFormed = false := by decide
theorem test_wellFormed_refuses_reserved_127 : (Instr.reserved false 127#7 0#24).wellFormed = false := by decide
theorem test_wellFormed_takes_badlen_33_35 :
    (Instr.streaminfoBadlen true 33#24).wellFormed = true ∧ (Instr.streaminfoBadlen true 35#24).wellFormed = true := by
  decide
theorem test_wellFormed_takes_reserved_7_126 :
    (Instr.reserved false 7#7 0#24).wellFormed = true ∧ (Instr.reserved false 126#7 0#24).wellFormed = true := by decide

/-! ## Decoding, by words written out from the spec's encodings: each constructor under both layouts -/

/-- R68's rows; V10 (its `DOC` column) and V11 (its `FLAC` column). -/
theorem test_decode_streaminfo :
    decodeHeader .docLsbFlag #v[0x01, 0x00, 0x00, 0x22] = .streaminfo true ∧
    decodeHeader .docLsbFlag #v[0x00, 0x00, 0x00, 0x22] = .streaminfo false ∧
    decodeHeader .flacMsbFlag #v[0x80, 0x00, 0x00, 0x22] = .streaminfo true ∧
    decodeHeader .flacMsbFlag #v[0x00, 0x00, 0x00, 0x22] = .streaminfo false := by decide

/-- V1, V45, V46. -/
theorem test_decode_streaminfoBadlen :
    decodeHeader .docLsbFlag #v[0x00, 0x00, 0x00, 0x14] = .streaminfoBadlen false 20#24 ∧
    decodeHeader .flacMsbFlag #v[0x00, 0x00, 0x00, 0x14] = .streaminfoBadlen false 20#24 ∧
    decodeHeader .docLsbFlag #v[0x00, 0x00, 0x00, 0x23] = .streaminfoBadlen false 35#24 ∧
    decodeHeader .docLsbFlag #v[0x01, 0x00, 0x00, 0x00] = .streaminfoBadlen true 0#24 := by decide

/-- V10 (`FLAC`), R149's and R146's examples. -/
theorem test_decode_padding :
    decodeHeader .docLsbFlag #v[0x02, 0x00, 0x00, 0x03] = .padding false 3#24 ∧
    decodeHeader .docLsbFlag #v[0x03, 0x00, 0x00, 0x02] = .padding true 2#24 ∧
    decodeHeader .flacMsbFlag #v[0x01, 0x00, 0x00, 0x22] = .padding false 34#24 := by decide

/-- R150's example; P7 under both layouts. -/
theorem test_decode_application :
    decodeHeader .docLsbFlag #v[0x04, 0x00, 0x00, 0x08] = .application false 8#24 ∧
    decodeHeader .docLsbFlag #v[0x05, 0x00, 0x00, 0x08] = .application true 8#24 ∧
    decodeHeader .flacMsbFlag #v[0x82, 0x00, 0x00, 0x08] = .application true 8#24 := by decide

/-- R151's example; V15a (`DOC`); P2 (`FLAC`). -/
theorem test_decode_seektable :
    decodeHeader .docLsbFlag #v[0x06, 0x00, 0x00, 0x12] = .seektable false 18#24 ∧
    decodeHeader .docLsbFlag #v[0x07, 0x00, 0x00, 0x00] = .seektable true 0#24 ∧
    decodeHeader .flacMsbFlag #v[0x03, 0x00, 0x00, 0x00] = .seektable false 0#24 := by decide

/-- V12, V13. -/
theorem test_decode_vorbisComment :
    decodeHeader .docLsbFlag #v[0x09, 0x00, 0x00, 0x28] = .vorbisComment true 40#24 ∧
    decodeHeader .flacMsbFlag #v[0x84, 0x00, 0x00, 0x28] = .vorbisComment true 40#24 := by decide

/-- R153's example; R68's `FLAC` row. -/
theorem test_decode_cuesheet :
    decodeHeader .docLsbFlag #v[0x0A, 0x00, 0x01, 0x00] = .cuesheet false 256#24 ∧
    decodeHeader .flacMsbFlag #v[0x85, 0x00, 0x01, 0x00] = .cuesheet true 256#24 := by decide

/-- V14, V14a, V19 (`FLAC`). -/
theorem test_decode_picture :
    decodeHeader .docLsbFlag #v[0x0C, 0xFF, 0xFF, 0xFF] = .picture false 16777215#24 ∧
    decodeHeader .docLsbFlag #v[0x0D, 0x00, 0x00, 0x00] = .picture true 0#24 ∧
    decodeHeader .flacMsbFlag #v[0x86, 0x12, 0x34, 0x56] = .picture true 1193046#24 := by decide

/-- V11, V12 (`FLAC`), V15, V15a, V16, V16a, V18. -/
theorem test_decode_reserved :
    decodeHeader .docLsbFlag #v[0x80, 0x00, 0x00, 0x22] = .reserved false 64#7 34#24 ∧
    decodeHeader .flacMsbFlag #v[0x09, 0x00, 0x00, 0x28] = .reserved false 9#7 40#24 ∧
    decodeHeader .docLsbFlag #v[0x0E, 0x00, 0x00, 0x05] = .reserved false 7#7 5#24 ∧
    decodeHeader .flacMsbFlag #v[0x07, 0x00, 0x00, 0x00] = .reserved false 7#7 0#24 ∧
    decodeHeader .docLsbFlag #v[0xFD, 0x00, 0x00, 0x00] = .reserved true 126#7 0#24 ∧
    decodeHeader .flacMsbFlag #v[0x7E, 0x00, 0x00, 0x00] = .reserved false 126#7 0#24 ∧
    decodeHeader .docLsbFlag #v[0x0F, 0x01, 0x02, 0x03] = .reserved true 7#7 66051#24 := by decide

/-- V17, V17a, V17b. -/
theorem test_decode_invalid :
    decodeHeader .docLsbFlag #v[0xFE, 0x00, 0x00, 0x01] = .invalid false 1#24 ∧
    decodeHeader .docLsbFlag #v[0xFF, 0x00, 0x00, 0x00] = .invalid true 0#24 ∧
    decodeHeader .flacMsbFlag #v[0xFF, 0x00, 0x00, 0x00] = .invalid true 0#24 ∧
    decodeHeader .flacMsbFlag #v[0x7F, 0x00, 0x00, 0x00] = .invalid false 0#24 := by decide

/-- R60; the row `MAGIC` of the table. -/
theorem test_decode_magic : decodeTableWord 32 0x664C6143 = some (.magic #v[0x66, 0x4C, 0x61, 0x43]) := by decide

/-- R70 on V31: fields that cross bytes, as stored. -/
theorem test_decode_siPayload :
    decodeTableWord 272 0x0480120000_03E8002328_17700B71_23456789_AAAAAAAAAAAAAAAAAAAAAAAAAAAAAAAA =
      some (.siPayload { minblk := 1152, maxblk := 4608, minfrm := 1000, maxfrm := 9000, rate := 96000, chan := 5, bps := 23,
                         total := 4886718345, md5 := Vector.replicate 16 0xAA#8 }) := by decide

/-- A length that is no format's is rejected by name (R104, R131); a table word of another length is none. -/
theorem test_decode_rejects_lengths :
    decode .docLsbFlag .hdr32 [0, 0, 0] = .error (.wrongLength .hdr32 3) ∧
    decode .docLsbFlag .si272 (List.replicate 35 0) = .error (.wrongLength .si272 35) ∧
    decodeTableWord 16 0 = none := by refine ⟨rfl, rfl, rfl⟩

/-- The round-trip words of 95 section 3, under both layouts. -/
theorem test_encode_header :
    hdrEncode .docLsbFlag true 0#7 16777215#24 = #v[0x01, 0xFF, 0xFF, 0xFF] ∧
    hdrEncode .docLsbFlag true 6#7 34#24 = #v[0x0D, 0x00, 0x00, 0x22] ∧
    hdrEncode .docLsbFlag true 99#7 65536#24 = #v[0xC7, 0x01, 0x00, 0x00] ∧
    hdrEncode .flacMsbFlag true 0#7 16777215#24 = #v[0x80, 0xFF, 0xFF, 0xFF] ∧
    hdrEncode .flacMsbFlag false 127#7 1#24 = #v[0x7F, 0x00, 0x00, 0x01] ∧
    hdrEncode .flacMsbFlag true 99#7 65536#24 = #v[0xE3, 0x01, 0x00, 0x00] := by decide

/-- P5's stream from its notation (R76). -/
theorem test_assemble_P5 :
    assemble docAbort [.magic, .block false 0#7 20#24 (List.replicate 20 0#8)] =
      [0x66, 0x4C, 0x61, 0x43, 0x00, 0x00, 0x00, 0x14] ++ List.replicate 20 0#8 := by decide

/-! ## The function units -/

/-- V3 to V6a. -/
theorem test_u16be :
    u16be #v[0x00, 0x00] = 0#16 ∧ u16be #v[0xFF, 0xFF] = 65535#16 ∧ u16be #v[0x00, 0xFF] = 255#16 ∧
    u16be #v[0xFF, 0x00] = 65280#16 ∧ u16be #v[0x12, 0x34] = 4660#16 := by decide

/-- V7 to V9b. -/
theorem test_u24be :
    u24be #v[0xFF, 0xFF, 0xFF] = 16777215#24 ∧ u24be #v[0x01, 0x00, 0x00] = 65536#24 ∧
    u24be #v[0x00, 0x01, 0x00] = 256#24 ∧ u24be #v[0x80, 0x00, 0x00] = 8388608#24 ∧
    u24be #v[0x12, 0x34, 0x56] = 1193046#24 ∧ u24be #v[0x0A, 0xC4, 0x42] = 705602#24 := by decide

/-- V2. -/
theorem test_siDecode_T : siDecode payloadT = fieldsT := by decide

/-- V20 and V21. -/
theorem test_siDecode_extremes :
    siDecode (Vector.replicate 34 0x00#8) =
      { minblk := 0, maxblk := 0, minfrm := 0, maxfrm := 0, rate := 0, channels := 1, bps := 1, total := 0,
        md5 := Vector.replicate 16 0x00#8 } ∧
    siDecode (Vector.replicate 34 0xFF#8) =
      { minblk := 65535, maxblk := 65535, minfrm := 16777215, maxfrm := 16777215, rate := 1048575, channels := 8,
        bps := 32, total := 68719476735, md5 := Vector.replicate 16 0xFF#8 } := by decide

/-- V22 to V28: rate, channels, depth and total of `Z` with one byte changed; R137's wrong extractions differ on them. -/
theorem test_siDecode_bytes_12_13 :
    let f := fun b12 b13 => let x := siDecode (payloadZ b12 b13); (x.rate, x.channels, x.bps, x.total)
    f 0xE0 0x00 = (14, 1, 1, 0) ∧ f 0x01 0x00 = (0, 1, 17, 0) ∧ f 0x00 0xF0 = (0, 1, 16, 0) ∧
    f 0x00 0x0F = (0, 1, 1, 64424509440) ∧ f 0x0E 0x00 = (0, 8, 1, 0) ∧ f 0x10 0x00 = (1, 1, 1, 0) ∧
    f 0x1E 0x00 = (1, 8, 1, 0) := by decide

/-- V2 the other way. -/
theorem test_siEncode_T : siEncode fieldsT = payloadT := by decide

/-- V9c, V19a: a wrong length is refused; V32: for `SI.DECODE` it is the failure, handed back with no state written. -/
theorem test_units_wrong_length :
    step (core docAbort .init 0 [] [.unit (.u16be [1, 2, 3])]) = .refused .preconditionViolation ∧
    step (core docAbort .init 0 [] [.unit (.hdrDecode [])]) = .refused .preconditionViolation ∧
    view (step (core docAbort .init 0 [] [.unit (.siDecode (List.replicate 33 0))])) =
      some ⟨.init, .none, 0, 0, none, some (.unit (.failed .payloadLengthMismatch))⟩ := by refine ⟨rfl, rfl, rfl⟩

/-! ## The instructions: one step on a small state, at most two tests each -/

/-- R148's example: header `00 00 00 22` and `T`. -/
theorem test_step_streaminfo :
    yields (step (core docAbort .scanning 4 (marker ++ [0x00, 0x00, 0x00, 0x22] ++ payloadT.toList) [.step]))
      .scanning 42 { kind := .streaminfoRec, hdr := { last := false, tcode := 0, tclass := .streamInfo, len := 34 },
                     warn := false, si := some fieldsT } := by decide +kernel

/-- P9: the payload is one byte short. -/
theorem test_step_streaminfo_truncated :
    fails (step (core docAbort .scanning 4 (marker ++ [0x01, 0x00, 0x00, 0x22] ++ payloadT.toList.take 33) [.step]))
      .truncatedRead 34 8 := by decide +kernel

/-- V45: the mismatch wins over the missing payload. -/
theorem test_step_streaminfoBadlen :
    fails (step (core docSkip .scanning 4 (marker ++ [0x00, 0x00, 0x00, 0x23]) [.step])) .payloadLengthMismatch 0x23 8 := by decide

/-- R149's example. -/
theorem test_step_padding :
    yields (step (core docAbort .scanning 4 (marker ++ [0x02, 0x00, 0x00, 0x03, 9, 9, 9, 7]) [.step])) .scanning 11
      (opaqueRecord false 1 .padding 3 false) := by decide

/-- R146's example: the last flag ends the chain. -/
theorem test_step_padding_last :
    yields (step (core docAbort .scanning 4 (marker ++ [0x03, 0x00, 0x00, 0x02, 0xAA, 0xBB]) [.step])) .done 10
      (opaqueRecord true 1 .padding 2 false) := by decide

/-- R150's example. -/
theorem test_step_application :
    yields (step (core docAbort .scanning 4 (marker ++ [0x04, 0x00, 0x00, 0x08] ++ List.replicate 8 1) [.step])) .scanning 16
      (opaqueRecord false 2 .application 8 false) := by decide

/-- P7: the skip fails whole, and the cursor stays after the header. -/
theorem test_step_application_truncated :
    fails (step (core docAbort .scanning 4 (marker ++ [0x05, 0x00, 0x00, 0x08, 1, 2, 3]) [.step])) .truncatedRead 8 8 := by decide

/-- P2's third block: a length of zero skips nothing, at the very end of the stream too (R57). -/
theorem test_step_seektable_empty :
    yields (step (core docAbort .scanning 4 (marker ++ [0x06, 0x00, 0x00, 0x00]) [.step])) .scanning 8
      (opaqueRecord false 3 .seekTable 0 false) := by decide

/-- P2's fourth block, under the other layout. -/
theorem test_step_vorbisComment :
    yields (step (core flacSkip .scanning 4 (marker ++ [0x84, 0x00, 0x00, 0x05, 1, 2, 3, 4, 5, 0xFF]) [.step])) .done 13
      (opaqueRecord true 4 .vorbisComment 5 false) := by decide

/-- R153, with a length of one. -/
theorem test_step_cuesheet :
    yields (step (core docAbort .scanning 4 (marker ++ [0x0A, 0x00, 0x00, 0x01, 5]) [.step])) .scanning 9
      (opaqueRecord false 5 .cuesheet 1 false) := by decide

/-- P4's second block. -/
theorem test_step_picture :
    yields (step (core docAbort .scanning 4 (marker ++ [0x0C, 0x00, 0x00, 0x01, 0xCC]) [.step])) .scanning 9
      (opaqueRecord false 6 .picture 1 false) := by decide

/-- V47. -/
theorem test_step_reserved_abort :
    fails (step (core docAbort .scanning 4 (marker ++ [0x0E, 0x00, 0x00, 0x02]) [.step])) .reservedOrInvalidBlockType
      0x0E000002 8 := by decide

/-- V49. -/
theorem test_step_reserved_skip :
    yields (step (core docSkip .scanning 4 (marker ++ [0x0F, 0x00, 0x00, 0x00]) [.step])) .done 8
      (opaqueRecord true 7 (.reserved 7) 0 true) := by decide

/-- R156's example under `ABORT`. -/
theorem test_step_invalid_abort :
    fails (step (core docAbort .scanning 4 (marker ++ [0xFF, 0x00, 0x00, 0x00]) [.step])) .reservedOrInvalidBlockType
      0xFF000000 8 := by decide

/-- R156's example under `SKIP`, with the flag under the other layout too. -/
theorem test_step_invalid_skip :
    yields (step (core flacSkip .scanning 4 (marker ++ [0xFF, 0x00, 0x00, 0x00]) [.step])) .done 8
      (opaqueRecord true 127 .invalid 0 true) := by decide

/-- R145's example. -/
theorem test_start_magic :
    view (step (core docAbort .init 0 (marker ++ [0]) [.start])) =
      some ⟨.scanning, .none, 0, 4, none, some .started⟩ := by decide

/-- V42. -/
theorem test_start_not_a_container :
    fails (step (core docAbort .init 0 [0x66, 0x4C, 0x61, 0x42] [.start])) .notAContainer 0x664C6142 4 := by decide

/-- V41: a short stream is never `NotAContainer`. -/
theorem test_start_truncated :
    fails (step (core docAbort .init 0 [0x66, 0x4C, 0x61] [.start])) .truncatedRead 4 0 := by decide

/-- V2 at the operand port of `SI.DECODE`. -/
theorem test_siPayload :
    view (exec (.siPayload (siExtract payloadT)) State.reset) =
      some ⟨.init, .none, 0, 0, none, some (.unit (.streamInfo fieldsT))⟩ := by decide

/-! ## The commands in their states, and the registers -/

/-- V43, V44: a header read that finds 0 or 3 bytes. -/
theorem test_step_truncated_header :
    fails (step (core docAbort .scanning 4 marker [.step])) .truncatedRead 4 4 ∧
    fails (step (core docAbort .scanning 4 (marker ++ [0, 0, 0]) [.step])) .truncatedRead 4 4 := by decide

/-- V50, V51, V52. -/
theorem test_commands_in_the_wrong_state :
    view (step (core docAbort .init 0 marker [.step])) = some ⟨.init, .none, 0, 0, none, some .refused⟩ ∧
    view (step (core docAbort .scanning 4 marker [.start])) = some ⟨.scanning, .none, 0, 4, none, some .refused⟩ ∧
    view (step (core docAbort .done 8 marker [.step])) = some ⟨.done, .none, 0, 8, none, some .ended⟩ := by decide

/-- R144's example. -/
theorem test_reset :
    view (step { core docAbort .done 50 marker [.reset] with err := .failed .truncatedRead, einfo := 4#32 }) =
      some ⟨.init, .none, 0, 0, none, some .resetDone⟩ := by decide

/-- R27: `STATUS` of a state with every field set, and the default of `MAGIC`. -/
theorem test_registers :
    readReg { core docSkip .done 8 [] [] with out := some (opaqueRecord true 7 (.reserved 7) 0 true) } .status =
      some (.field 32 0x22) ∧
    readReg { core docSkip .done 8 [] [] with err := .failed .payloadLengthMismatch } .status = some (.field 32 0x12) ∧
    readReg (core flacSkip .init 0 [] []) .cfg = some (.field 32 3) ∧
    readReg State.reset .magic = some (.field 32 0x664C6143) ∧ readReg State.reset .outWarn = none := by decide

/-! ## Placing a word of the opcode table (log 17) -/

/-- From reset, the very next step runs the word that was placed. -/
theorem test_withFetchWord :
    yields (step (State.reset.withFetchWord 32 0x02000000)) .scanning 8 (opaqueRecord false 1 .padding 0 false) ∧
    yields (step (State.reset.withFetchWord 32 0x0D000004)) .done 12 (opaqueRecord true 6 .picture 4 false) ∧
    fails (step (State.reset.withFetchWord 32 0x00000014)) .payloadLengthMismatch 0x14 8 ∧
    fails (step (State.reset.withFetchWord 32 0xFE000000)) .reservedOrInvalidBlockType 0xFE000000 8 ∧
    view (step (State.reset.withFetchWord 32 0x664C6143)) = some ⟨.scanning, .none, 0, 4, none, some .started⟩ := by decide

/-- The payload row, placed at the operand port of `SI.DECODE`. -/
theorem test_withFetchWord_siPayload :
    view (step (State.reset.withFetchWord 272 0)) =
      some ⟨.init, .none, 0, 0, none, some (.unit (.streamInfo
        { minblk := 0, maxblk := 0, minfrm := 0, maxfrm := 0, rate := 0, channels := 1, bps := 1, total := 0,
          md5 := Vector.replicate 16 0x00#8 }))⟩ := by decide

/-! ## Witnesses: concrete values that meet the hypotheses of each obligation, clause by clause -/

/-- A core after power-on with one transaction presented. -/
def asks (r : Request) : State := { State.reset with reqs := [r] }

theorem wit_UnpackersAnswerBigEndianValue :
    (asks (.unit (.u16be [0xFF, 0x00]))).reqs = [.unit (.u16be [0xFF, 0x00])] ∧
    (asks (.unit (.u24be [0xFF, 0xFF, 0xFF]))).reqs = [.unit (.u24be [0xFF, 0xFF, 0xFF])] := by decide

/-- Each length next to the right one. -/
theorem wit_WrongSpanLengthIsRefused :
    ((asks (.unit (.u16be [1]))).reqs = [.unit (.u16be [1])] ∧ [(1 : Byte)].length ≠ 2) ∧
    ((asks (.unit (.u24be [1, 2, 3, 4]))).reqs = [.unit (.u24be [1, 2, 3, 4])] ∧ [(1 : Byte), 2, 3, 4].length ≠ 3) ∧
    ((asks (.unit (.hdrDecode [1, 2, 3]))).reqs = [.unit (.hdrDecode [1, 2, 3])] ∧ [(1 : Byte), 2, 3].length ≠ 4) := by
  decide

/-- Spans in each order the clauses speak of, at the ends of a byte's range. -/
theorem wit_UnpackersAreMonotoneBijections :
    ((#v[0x00, 0xFF] : Span 2)[0] < (#v[0x01, 0x00] : Span 2)[0]) ∧
    ((#v[0x01, 0x00] : Span 2)[0] = (#v[0x01, 0xFF] : Span 2)[0] ∧
      (#v[0x01, 0x00] : Span 2)[1] < (#v[0x01, 0xFF] : Span 2)[1]) ∧
    ((#v[0x00, 0xFF, 0xFF] : Span 3)[0] < (#v[0xFF, 0x00, 0x00] : Span 3)[0]) ∧
    ((#v[0x01, 0x00, 0xFF] : Span 3)[0] = (#v[0x01, 0x01, 0x00] : Span 3)[0] ∧
      (#v[0x01, 0x00, 0xFF] : Span 3)[1] < (#v[0x01, 0x01, 0x00] : Span 3)[1]) ∧
    ((#v[0x01, 0x01, 0x00] : Span 3)[0] = (#v[0x01, 0x01, 0x01] : Span 3)[0] ∧
      (#v[0x01, 0x01, 0x00] : Span 3)[1] = (#v[0x01, 0x01, 0x01] : Span 3)[1] ∧
      (#v[0x01, 0x01, 0x00] : Span 3)[2] < (#v[0x01, 0x01, 0x01] : Span 3)[2]) := by decide

theorem wit_TypeCodesClassifyTotally :
    (7 ≤ (7#7).toNat ∧ (7#7).toNat ≤ 126) ∧ (7 ≤ (126#7).toNat ∧ (126#7).toNat ≤ 126) := by decide

theorem wit_HeaderUnitAnswersHeader :
    ((asks (.unit (.hdrDecode (#v[1, 0, 0, 34] : Span 4).toList))).reqs =
        [.unit (.hdrDecode (#v[1, 0, 0, 34] : Span 4).toList)] ∧
      docAbort.layout = .docLsbFlag ∧ flacSkip.layout = .flacMsbFlag) ∧
    (asks (.unit (.typeClassify 127#7))).reqs = [.unit (.typeClassify 127#7)] := by decide

/-- The well-formed instructions next to each check's limit. -/
theorem wit_DecodeOfEncodeIsIdentity :
    (Instr.reserved true 7#7 16777215#24).wellFormed = true ∧ (Instr.reserved false 126#7 0#24).wellFormed = true ∧
    (Instr.streaminfoBadlen true 33#24).wellFormed = true ∧ (Instr.streaminfoBadlen false 35#24).wellFormed = true ∧
    (Instr.siPayload (siExtract payloadT)).wellFormed = true ∧ (Instr.magic #v[0, 0, 0, 0]).wellFormed = true := by decide

theorem wit_EncodeOfDecodeIsIdentity :
    decode .docLsbFlag .hdr32 [0x00, 0x00, 0x00, 0x23] = .ok (.streaminfoBadlen false 35#24) ∧
    decode .flacMsbFlag .marker32 marker = .ok (.magic #v[0x66, 0x4C, 0x61, 0x43]) ∧
    decode .docLsbFlag .si272 payloadT.toList = .ok (.siPayload (siExtract payloadT)) := by refine ⟨rfl, rfl, rfl⟩

theorem wit_DecodingIsTotal :
    marker.length = Format.hdr32.size ∧ payloadT.toList.length = Format.si272.size ∧
    ([] : List Byte).length ≠ Format.hdr32.size ∧ (List.replicate 35 (0 : Byte)).length ≠ Format.si272.size := by decide

/-- The one pair of rows that a word can match together does. -/
theorem wit_OpcodeMapAgreesWithDecoder :
    (0x01000022#32 &&& 0xFEFFFFFF#32) = 0x00000022#32 ∧ (0x01000022#32 &&& 0xFE000000#32) = 0x00000000#32 := by decide

/-- Records at both ends of the two ranges. -/
theorem wit_StreamInfoCodecIsBijective :
    (1 ≤ (1#4).toNat ∧ (1#4).toNat ≤ 8) ∧ (1 ≤ (8#4).toNat ∧ (8#4).toNat ≤ 8) ∧
    (1 ≤ (1#6).toNat ∧ (1#6).toNat ≤ 32) ∧ (1 ≤ (32#6).toNat ∧ (32#6).toNat ≤ 32) := by decide

/-- Two different payloads that agree on what each field of bytes 12 and 13 depends on, and on every other byte. -/
theorem wit_StreamInfoFieldDependencies :
    ((payloadZ 0xE0 0)[12].extractLsb' 4 4 = (payloadZ 0xEF 0)[12].extractLsb' 4 4 ∧ payloadZ 0xE0 0 ≠ payloadZ 0xEF 0) ∧
    ((payloadZ 0x0E 0)[12].extractLsb' 1 3 = (payloadZ 0xFF 0)[12].extractLsb' 1 3 ∧ payloadZ 0x0E 0 ≠ payloadZ 0xFF 0) ∧
    ((payloadZ 0x01 0xF0)[12].getLsbD 0 = (payloadZ 0xF1 0xFF)[12].getLsbD 0 ∧
      (payloadZ 0x01 0xF0)[13].extractLsb' 4 4 = (payloadZ 0xF1 0xFF)[13].extractLsb' 4 4 ∧
      payloadZ 0x01 0xF0 ≠ payloadZ 0xF1 0xFF) ∧
    ((payloadZ 0 0x0F)[13].extractLsb' 0 4 = (payloadZ 1 0xFF)[13].extractLsb' 0 4 ∧ payloadZ 0 0x0F ≠ payloadZ 1 0xFF) ∧
    (∀ i : Fin 34, i.val ≠ 12 → i.val ≠ 13 → (payloadZ 0 0)[i] = (payloadZ 0xFF 0xFF)[i]) ∧
    payloadZ 0 0 ≠ payloadZ 0xFF 0xFF := by decide

theorem wit_SiUnitChecksItsLength :
    (asks (.unit (.siDecode payloadT.toList))).reqs = [.unit (.siDecode payloadT.toList)] ∧
    ((asks (.unit (.siDecode (List.replicate 33 0)))).reqs = [.unit (.siDecode (List.replicate 33 0))] ∧
      (List.replicate 33 (0 : Byte)).length ≠ 34) ∧ (List.replicate 35 (0 : Byte)).length ≠ 34 := by decide

theorem wit_UnitsWriteNoState :
    ∃ t, step (asks (.unit (.typeClassify 9#7))) = .next t ∧
      (asks (.unit (.typeClassify 9#7))).reqs = [.unit (.typeClassify 9#7)] := ⟨_, rfl, rfl⟩

/-- Of zero bytes past the end, of all the bytes there are, and of one more. -/
theorem wit_MemReadIsAllOrNothing :
    ((0 = 0 ∨ (core docAbort .done 9 marker []).pos + 0 ≤ 4) ∧ (core docAbort .done 9 marker []).mem.size = 4) ∧
    ((core docAbort .done 1 marker []).pos + 3 ≤ (core docAbort .done 1 marker []).mem.size) ∧
    (4 ≠ 0 ∧ (core docAbort .done 1 marker []).mem.size < (core docAbort .done 1 marker []).pos + 4) := by decide

/-- A short stream in which a `STEP` yields a PADDING block of length 1 with the last flag; one byte follows it. -/
def oneBlock : State := core docAbort .scanning 4 (marker ++ [0x03, 0x00, 0x00, 0x01, 0xAA, 0x55]) [.step]

/-- The record of that block. -/
def oneRecord : Record := opaqueRecord true 1 .padding 1 false

theorem wit_StreamIsNeverWritten : ∃ t, step oneBlock = .next t := ⟨_, rfl⟩

theorem wit_CursorNeverMovesBackward :
    (∃ t, step oneBlock = .next t ∧ oneBlock.reqs = [.step] ∧ Request.step ≠ .reset ∧
      t.resp = some (.yielded oneRecord)) ∧
    (∃ t, step (core docAbort .init 0 marker [.start]) = .next t ∧ t.resp = some .started) ∧
    (∃ t, step (core docAbort .done 8 marker [.step]) = .next t ∧ t.resp = some .ended) ∧
    (∃ t, step (core docAbort .done 8 marker [.start]) = .next t ∧ t.resp = some .refused) :=
  ⟨⟨_, rfl, rfl, by decide, by decide⟩, ⟨_, rfl, by decide⟩, ⟨_, rfl, rfl⟩, ⟨_, rfl, rfl⟩⟩

/-- The same block with another byte after it. -/
theorem wit_BytesPastTheBlockDoNotMatter :
    let m := Memory.ofBytes (marker ++ [0x03, 0x00, 0x00, 0x01, 0xAA, 0x66, 0x77])
    m ≠ oneBlock.mem ∧ ∃ t, step oneBlock = .next t ∧ t.resp = some (.yielded oneRecord) ∧ t.pos = 9 ∧ 9 ≤ m.size ∧
      ∀ a, oneBlock.pos ≤ a → a < 9 → m.read a = oneBlock.mem.read a := by
  have h : ∀ a, a < 9 → (Memory.ofBytes (marker ++ [0x03, 0x00, 0x00, 0x01, 0xAA, 0x66, 0x77])).read a =
      oneBlock.mem.read a := by decide
  exact ⟨by decide, _, rfl, by decide, by decide, by decide, fun a _ ha => h a ha⟩

/-- A PADDING block before two streams that differ in the payload. -/
theorem wit_OpaquePayloadIsNotInterpreted :
    let s := core docAbort .scanning 4 (marker ++ [1, 2]) []
    let m := Memory.ofBytes (marker ++ [3, 4])
    (∀ last, Instr.padding true 2#24 ≠ .streaminfo last) ∧ m.size = s.mem.size ∧ m ≠ s.mem ∧
      ∃ t, exec (.padding true 2#24) s = .next t ∧ t.resp = some (.yielded (opaqueRecord true 1 .padding 2 false)) :=
  ⟨by decide, by decide, by decide, _, rfl, by decide⟩

/-- `RESET`, and in `DONE` after a failure a transaction of each other kind. -/
theorem wit_ResetClearsTheMachine :
    ((asks .reset).reqs = [.reset] ∧ Request.reset = .reset) ∧
    ∀ r ∈ [Request.start, .step, .unit (.typeClassify 9#7)],
      let s : State := { State.reset with st := .done, err := .failed .truncatedRead, einfo := 4#32, reqs := [r] }
      s.reqs = [r] ∧ r ≠ .reset ∧ s.st = .done ∧ s.err ≠ .none ∧ ∃ t, step s = .next t := by
  refine ⟨by decide, fun r h => ?_⟩
  simp only [List.mem_cons, List.not_mem_nil, or_false] at h
  rcases h with rfl | rfl | rfl
  · exact ⟨rfl, by decide, rfl, by decide, _, rfl⟩
  · exact ⟨rfl, by decide, rfl, by decide, _, rfl⟩
  · exact ⟨rfl, by decide, rfl, by decide, _, rfl⟩

theorem wit_PowerOnValues : (asks .reset).reqs = [.reset] ∧ Reg.number .outKind = none ∧ Reg.number (.outSiMd5 15) = none := by
  decide

theorem wit_WrongStateCommandsAreRefused :
    ((core docAbort .scanning 4 marker [.start]).reqs = [.start] ∧ SeqState.scanning ≠ .init) ∧
    ((core docAbort .done 4 marker [.start]).reqs = [.start] ∧ SeqState.done ≠ .init) ∧
    ((asks .step).reqs = [.step] ∧ (asks .step).st = .init) := by decide

/-- The four clauses: refused, three bytes, the marker, and four bytes that differ in the last. -/
theorem wit_StartVerifiesTheMarker :
    ((core docAbort .done 4 marker [.start]).reqs = [.start] ∧ (core docAbort .done 4 marker [.start]).st ≠ .init) ∧
    (let s := core docAbort .init 0 (marker.take 3) [.start]
     s.reqs = [.start] ∧ s.st = .init ∧ s.mem.size < s.pos + 4) ∧
    (let s := core docAbort .init 0 marker [.start]
     s.reqs = [.start] ∧ s.st = .init ∧ bytesAt s.mem s.pos s.cfg.magic.toList) ∧
    (let s := core docAbort .init 0 [0x66, 0x4C, 0x61, 0x42] [.start]
     s.reqs = [.start] ∧ s.st = .init ∧ bytesAt s.mem s.pos (#v[0x66, 0x4C, 0x61, 0x42] : Span 4).toList ∧
       #v[0x66, 0x4C, 0x61, 0x42] ≠ s.cfg.magic) := by unfold bytesAt; decide

theorem wit_MarkerComparisonCompletes :
    Config.specMagic = (asks .start).cfg.magic ∧ (#v[0x66, 0x4C, 0x61, 0x42] : Span 4) ≠ (asks .start).cfg.magic := by decide

/-- A header under the other layout, the marker, and a payload at the operand port. -/
theorem wit_StepRunsTheDecodedInstruction :
    (let s := core flacSkip .scanning 4 (marker ++ [0x81, 0x00, 0x00, 0x02]) [.step]
     let i := Instr.padding true 2#24
     i.wellFormed = true ∧ i.format = .hdr32 ∧ s.reqs = [.step] ∧ s.st = .scanning ∧
       bytesAt s.mem s.pos (encode s.cfg.layout i)) ∧
    (let s := core docAbort .init 0 marker [.start]
     let i := Instr.magic #v[0x66, 0x4C, 0x61, 0x43]
     i.wellFormed = true ∧ i.format = .marker32 ∧ s.reqs = [.start] ∧ s.st = .init ∧
       bytesAt s.mem s.pos (encode s.cfg.layout i)) ∧
    (let i := Instr.siPayload (siExtract payloadT)
     let s := asks (.unit (.siDecode (encode .docLsbFlag i)))
     i.wellFormed = true ∧ i.format = .si272 ∧ s.reqs = [.unit (.siDecode (encode s.cfg.layout i))]) := by
  unfold bytesAt; decide

theorem wit_DoneAnswersEndForever :
    (core docAbort .done 8 marker [.step, .step, .reset]).st = .done ∧
    (core docAbort .done 8 marker [.step, .step, .reset]).reqs = List.replicate (1 + 1) .step ++ [.reset] := by decide

theorem wit_IdleCoreKeepsAllState : State.reset.reqs = [] := rfl

/-- The pairs of the statement, at one flag and length. -/
def opaquePairs (last : Bool) (len : BitVec 24) : List (Instr × BlockHeader) :=
  [(Instr.padding last len, { last := last, tcode := 1#7, tclass := TClass.padding, len := len }),
   (Instr.application last len, { last := last, tcode := 2#7, tclass := TClass.application, len := len }),
   (Instr.seektable last len, { last := last, tcode := 3#7, tclass := TClass.seekTable, len := len }),
   (Instr.vorbisComment last len, { last := last, tcode := 4#7, tclass := TClass.vorbisComment, len := len }),
   (Instr.cuesheet last len, { last := last, tcode := 5#7, tclass := TClass.cuesheet, len := len }),
   (Instr.picture last len, { last := last, tcode := 6#7, tclass := TClass.picture, len := len })]

/-- A length of zero at the end of the stream, all the bytes there are, and one byte too many, for the first and the last
of the six. -/
theorem wit_OpaqueArmsSkipAndYield :
    let s := core docAbort .scanning 4 (marker ++ [1, 2]) []
    ((Instr.padding true 0#24, ({ last := true, tcode := 1#7, tclass := .padding, len := 0#24 } : BlockHeader)) ∈
        opaquePairs true 0#24 ∧ ((0#24).toNat = 0 ∨ 6 + (0#24).toNat ≤ s.mem.size)) ∧
    ((Instr.picture false 2#24, ({ last := false, tcode := 6#7, tclass := .picture, len := 2#24 } : BlockHeader)) ∈
        opaquePairs false 2#24 ∧ ((2#24).toNat = 0 ∨ s.pos + (2#24).toNat ≤ s.mem.size)) ∧
    ((Instr.picture true 3#24, ({ last := true, tcode := 6#7, tclass := .picture, len := 3#24 } : BlockHeader)) ∈
        opaquePairs true 3#24 ∧ (3#24).toNat ≠ 0 ∧ s.mem.size < s.pos + (3#24).toNat) := by decide

/-- A whole payload, a stream one byte short, and the lengths next to 34. -/
theorem wit_StreamInfoArmDecodesOrFails :
    (let s := core docAbort .scanning 4 (marker ++ payloadT.toList) []
     bytesAt s.mem s.pos payloadT.toList) ∧
    (let s := core docAbort .scanning 4 (marker ++ payloadT.toList.take 33) []
     s.mem.size < s.pos + 34) ∧
    33#24 ≠ 34#24 ∧ 35#24 ≠ 34#24 := by unfold bytesAt; decide +kernel

/-- The ends of the reserved range, both policies, and a payload that is there and one that is not. -/
theorem wit_ReservedArmsFollowThePolicy :
    (7 ≤ (7#7).toNat ∧ (7#7).toNat ≤ 126) ∧ (7 ≤ (126#7).toNat ∧ (126#7).toNat ≤ 126) ∧
    (∀ tcode : BitVec 7, ∀ pair ∈
      [(Instr.reserved true tcode 2#24, ({ last := true, tcode := tcode, tclass := .reserved tcode, len := 2#24 } : BlockHeader)),
       (Instr.invalid true 2#24, ({ last := true, tcode := 127#7, tclass := .invalid, len := 2#24 } : BlockHeader))],
      pair.1.header = some pair.2) ∧
    (core docAbort .scanning 4 marker []).cfg.policy = .abort ∧
    (let s := core docSkip .scanning 4 (marker ++ [1, 2]) []
     s.cfg.policy = .skip ∧ ((2#24).toNat = 0 ∨ s.pos + (2#24).toNat ≤ s.mem.size) ∧
       (3#24).toNat ≠ 0 ∧ s.mem.size < s.pos + (3#24).toNat) := by
  refine ⟨by decide, by decide, fun tcode pair h => ?_, by decide, by decide⟩
  rcases List.mem_cons.1 h with rfl | h
  · rfl
  · rcases List.mem_singleton.1 h with rfl; rfl

theorem wit_LastFlagEndsTheChain :
    ∃ t, oneBlock.reqs = [.step] ∧ step oneBlock = .next t ∧ t.resp = some (.yielded oneRecord) :=
  ⟨_, rfl, rfl, by decide⟩

/-- A STREAMINFO block that ends with the stream, and an invalid one of length 0 under `SKIP`. -/
theorem wit_StepYieldsTheBlock :
    (let s := core docAbort .scanning 4 (marker ++ [0x01, 0, 0, 34] ++ payloadT.toList) [.step]
     let hdr := hdrDecode s.cfg.layout #v[0x01, 0, 0, 34]
     s.reqs = [.step] ∧ s.st = .scanning ∧ bytesAt s.mem s.pos (#v[0x01, 0, 0, 34] : Span 4).toList ∧
       admitted s.cfg hdr = true ∧ s.pos + 4 + hdr.len.toNat ≤ s.mem.size ∧ hdr.tcode = 0#7 ∧
       bytesAt s.mem (s.pos + 4) payloadT.toList) ∧
    (let s := core flacSkip .scanning 4 (marker ++ [0x7F, 0, 0, 0]) [.step]
     let hdr := hdrDecode s.cfg.layout #v[0x7F, 0, 0, 0]
     s.reqs = [.step] ∧ s.st = .scanning ∧ bytesAt s.mem s.pos (#v[0x7F, 0, 0, 0] : Span 4).toList ∧
       admitted s.cfg hdr = true ∧ s.pos + 4 + hdr.len.toNat ≤ s.mem.size ∧ hdr.tcode ≠ 0#7) := by
  unfold bytesAt; decide +kernel

/-- The marker one byte short, a header one byte short, and a payload one byte short. -/
theorem wit_TruncatedReadsEndTheChain :
    (let s := core docAbort .init 0 (marker.take 3) [.start]
     s.reqs = [.start] ∧ s.st = .init ∧ s.mem.size < s.pos + 4) ∧
    (let s := core docAbort .scanning 4 (marker ++ [0, 0, 0]) [.step]
     s.reqs = [.step] ∧ s.st = .scanning ∧ s.mem.size < s.pos + 4) ∧
    (let s := core docSkip .scanning 4 (marker ++ [0xFE, 0, 0, 2, 7]) [.step]
     let h : Span 4 := #v[0xFE, 0, 0, 2]
     s.reqs = [.step] ∧ s.st = .scanning ∧ bytesAt s.mem s.pos h.toList ∧
       admitted s.cfg (hdrDecode s.cfg.layout h) = true ∧ (hdrDecode s.cfg.layout h).len.toNat ≠ 0 ∧
       s.mem.size < s.pos + 4 + (hdrDecode s.cfg.layout h).len.toNat) := by unfold bytesAt; decide

/-- A STREAMINFO header of length 35, and the first and the last code above the named ones, nothing after them. -/
theorem wit_HeaderFailuresRecordTheWord :
    (let s := core docAbort .scanning 4 (marker ++ [0x01, 0, 0, 35]) [.step]
     let h : Span 4 := #v[0x01, 0, 0, 35]
     s.reqs = [.step] ∧ s.st = .scanning ∧ bytesAt s.mem s.pos h.toList ∧ (hdrDecode s.cfg.layout h).tcode = 0#7 ∧
       (hdrDecode s.cfg.layout h).len ≠ 34#24) ∧
    (let s := core docAbort .scanning 4 (marker ++ [0x0E, 0, 0, 2]) [.step]
     let h : Span 4 := #v[0x0E, 0, 0, 2]
     s.reqs = [.step] ∧ s.st = .scanning ∧ bytesAt s.mem s.pos h.toList ∧ 7 ≤ (hdrDecode s.cfg.layout h).tcode.toNat ∧
       s.cfg.policy = .abort) ∧
    (let s := core docAbort .scanning 4 (marker ++ [0xFF, 0, 0, 0]) [.step]
     let h : Span 4 := #v[0xFF, 0, 0, 0]
     s.reqs = [.step] ∧ s.st = .scanning ∧ bytesAt s.mem s.pos h.toList ∧ 7 ≤ (hdrDecode s.cfg.layout h).tcode.toNat ∧
       s.cfg.policy = .abort) := by unfold bytesAt; decide

/-- A core that has failed its first read, with a `STEP` presented. -/
def failedCore : State :=
  { State.reset with st := .done, err := .failed .truncatedRead, einfo := 4#32, reqs := [.step] }

theorem failedCore_inv : failedCore.Inv :=
  { init_clean := by decide
    scanning_clean := by decide
    failed_done := by decide
    done_last := fun _ h => absurd h (by decide)
    pos_le := by decide
    out_ok := fun _ h => by simp [failedCore, State.reset] at h
    einfo_clean := by decide
    mem_wf := by decide }

theorem wit_RecordedFailureStands :
    failedCore.Inv ∧ failedCore.err ≠ .none ∧ failedCore.reqs.head? ≠ some .reset ∧ ∃ t, step failedCore = .next t :=
  ⟨failedCore_inv, by decide, by decide, _, rfl⟩

/-- A core after power-on before a stream, with one transaction presented. -/
def fresh (bs : List Byte) (r : Request) : State := { State.reset with mem := Memory.ofBytes bs, reqs := [r] }

theorem fresh_inv (bs : List Byte) (r : Request) : (fresh bs r).Inv :=
  { init_clean := fun _ => ⟨rfl, rfl, rfl⟩
    scanning_clean := fun h => by simp [fresh, State.reset] at h
    failed_done := fun h => absurd rfl h
    done_last := fun h => by simp [fresh, State.reset] at h
    pos_le := Nat.zero_le _
    out_ok := fun _ h => by simp [fresh, State.reset] at h
    einfo_clean := fun _ => rfl
    mem_wf := Memory.ofBytes_wf bs }

/-- Each answer the clauses speak of. -/
theorem wit_OutIsEmptiedOrKept :
    (∃ t, (fresh [] .reset).Inv ∧ step (fresh [] .reset) = .next t ∧ t.resp = some .resetDone ∧ t.out = none) ∧
    (∃ t, (fresh marker .start).Inv ∧ step (fresh marker .start) = .next t ∧ t.resp = some .started) ∧
    (∃ t, (fresh [] .start).Inv ∧ step (fresh [] .start) = .next t ∧ t.resp = some (.failed .truncatedRead 4#32)) ∧
    (∃ t, failedCore.Inv ∧ step failedCore = .next t ∧ t.resp = some .ended) ∧
    Reg.number .outWarn = none :=
  ⟨⟨_, fresh_inv _ _, rfl, rfl, rfl⟩, ⟨_, fresh_inv _ _, rfl, by decide⟩, ⟨_, fresh_inv _ _, rfl, by decide⟩,
    ⟨_, failedCore_inv, rfl, rfl⟩, rfl⟩

theorem wit_OnlyWrongSpansAreRefused : step (asks (.unit (.u16be []))) = .refused .preconditionViolation := rfl

theorem wit_InstructionFrame : ∃ t, exec (.padding true 1#24) { oneBlock with pos := 8 } = .next t := ⟨_, rfl⟩

/-- A core in the middle of a chain, nothing yielded yet, with transactions presented. -/
def scanningCore (bs : List Byte) (reqs : List Request) : State := core docAbort .scanning 4 (marker ++ bs) reqs

theorem scanningCore_inv (bs : List Byte) (reqs : List Request) : (scanningCore bs reqs).Inv :=
  { init_clean := fun h => by simp [scanningCore, core] at h
    scanning_clean := fun _ => ⟨rfl, Nat.le_refl 4⟩
    failed_done := fun h => absurd rfl h
    done_last := fun h => by simp [scanningCore, core] at h
    pos_le := by
      simp only [scanningCore, core, Memory.ofBytes_size, List.length_append]
      exact Nat.le_add_right 4 bs.length
    out_ok := fun _ h => by simp [scanningCore, core, State.reset] at h
    einfo_clean := fun _ => rfl
    mem_wf := Memory.ofBytes_wf _ }

theorem wit_StepKeepsTheInvariants :
    ∃ t, (scanningCore [0x03, 0x00, 0x00, 0x01, 0xAA] [.step]).Inv ∧
      step (scanningCore [0x03, 0x00, 0x00, 0x01, 0xAA] [.step]) = .next t ∧ t.resp = some (.yielded oneRecord) :=
  ⟨_, scanningCore_inv _ _, rfl, by decide⟩

/-- Two blocks, the second with the flag, three calls. -/
theorem wit_FlaggedChainYieldsEveryBlock :
    let s := scanningCore [0x02, 0x00, 0x00, 0x01, 0xAA, 0x07, 0x00, 0x00, 0x00] [.step, .step, .step]
    s.st = .scanning ∧ chainAt s 2 s.pos = true ∧ s.reqs = List.replicate (2 + 1) .step ++ [] := by decide

/-- P4's first block alone, and no block at all. -/
theorem wit_UnflaggedChainSurfacesTruncation :
    (let s := scanningCore [0x02, 0x00, 0x00, 0x02, 0xAA, 0xBB] [.step, .step]
     s.st = .scanning ∧ unflaggedAt s 1 s.pos = true ∧ s.reqs = List.replicate (1 + 1 + 0) .step ++ []) ∧
    (let s := scanningCore [] [.step]
     s.st = .scanning ∧ unflaggedAt s 0 s.pos = true ∧ s.reqs = List.replicate (0 + 1 + 0) .step ++ []) := by decide

theorem wit_EveryRunTerminates :
    let s := scanningCore [0x02, 0x00, 0x00, 0x00] [.step, .step]
    s.Inv ∧ s.st = .scanning ∧ s.reqs = List.replicate ((s.mem.size - s.pos) / 4 + 1) .step ++ [] :=
  ⟨scanningCore_inv _ _, rfl, by decide⟩

/-- A core that has yielded a record, as it stands in `DONE`. -/
def doneCore (r : Record) : State := { core docSkip .done 0 [] [] with out := some r }

theorem doneCore_inv {r : Record} (hl : r.hdr.last = true) (hr : RecordOk docSkip r) : (doneCore r).Inv :=
  { init_clean := fun h => by simp [doneCore, core] at h
    scanning_clean := fun h => by simp [doneCore, core] at h
    failed_done := fun h => absurd rfl h
    done_last := fun _ _ => ⟨r, rfl, hl⟩
    pos_le := Nat.zero_le _
    out_ok := fun q h => by
      obtain rfl : r = q := by simpa [doneCore] using h
      exact hr
    einfo_clean := fun _ => rfl
    mem_wf := Memory.ofBytes_wf [] }

/-- The record of P1's block, with the flag. -/
def recordT : Record :=
  { kind := .streaminfoRec, hdr := { last := true, tcode := 0, tclass := .streamInfo, len := 34 }, warn := false,
    si := some fieldsT }

/-- A STREAMINFO record, and an opaque one with a warning (P6's second). -/
theorem wit_OutRegistersShowTheRecord :
    ((doneCore recordT).Inv ∧ (doneCore recordT).out = some recordT ∧ recordT.kind = .streaminfoRec ∧
      recordT.si = some fieldsT) ∧
    (let r := opaqueRecord true 127 .invalid 0 true
     (doneCore r).Inv ∧ (doneCore r).out = some r ∧ r.kind = .opaqueRec) :=
  ⟨⟨doneCore_inv rfl ⟨by decide, by decide, by decide, by decide⟩, rfl, rfl, rfl⟩,
    doneCore_inv rfl ⟨by decide, by decide, by decide, by decide⟩, rfl, rfl⟩

/-- R24: the registers of P1's record, at their widths, the digest's first and last byte; none of a STREAMINFO part in an
opaque record. -/
theorem test_out_registers :
    readReg (doneCore recordT) .outKind = some (.field 1 1) ∧ readReg (doneCore recordT) .outHLen = some (.field 24 34) ∧
    readReg (doneCore recordT) .outSiRate = some (.field 20 44100) ∧
    readReg (doneCore recordT) .outSiChannels = some (.field 4 2) ∧
    readReg (doneCore recordT) (.outSiMd5 0) = some (.field 8 0x86) ∧
    readReg (doneCore recordT) (.outSiMd5 15) = some (.field 8 0x43) ∧
    readReg (doneCore (opaqueRecord true 127 .invalid 0 true)) .outHTcode = some (.field 7 127) ∧
    readReg (doneCore (opaqueRecord true 127 .invalid 0 true)) .outWarn = some (.field 1 1) ∧
    readReg (doneCore (opaqueRecord true 127 .invalid 0 true)) .outSiRate = none := by decide

end Sys2Proof.Tests
end

/-! 10_state.md: what a served transaction can do, what the `OUT.*` registers show while `OUT` is none, and the
obligations about the reset values (R31) and about `OUT` (R25). -/

namespace Sys2Proof.Machine

/-! ## The registers of an empty `OUT` -/

theorem outField_eq_none {s : State} (h : s.out = none) (f : Record → RegValue) : outField s f = none := by
  simp [outField, h]

theorem outSi_eq_none {s : State} (h : s.out = none) (f : StreamInfo → RegValue) : outSi s f = none := by
  simp [outSi, h]

/-- R25: the registers without a number of their own are the `OUT.*` registers, and an empty `OUT` gives them no value. -/
theorem readReg_eq_none_of_out_none {s : State} (h : s.out = none) {reg : Reg} (hn : reg.number = none) :
    readReg s reg = none := by
  cases reg with
  | status | einfo | cfg | magic | pos => simp [Reg.number] at hn
  | outKind | outHLast | outHTcode | outHTclass | outHLen | outWarn => exact outField_eq_none h _
  | outSiMinblk | outSiMaxblk | outSiMinfrm | outSiMaxfrm | outSiRate | outSiChannels | outSiBps | outSiTotal
  | outSiMd5 => exact outSi_eq_none h _

/-! ## What a served transaction can do -/

/-- The instruction a header selects carries that header whole, if its class is that of its type code (R66, R75). -/
theorem instrOfHeader_header {h : BlockHeader} (hc : h.tclass = typeClassify h.tcode) :
    (instrOfHeader h).header = some h := by
  obtain ⟨last, tcode, tclass, len⟩ := h
  obtain rfl : tclass = typeClassify tcode := hc
  rcases typeClassify_cases tcode with ⟨rfl, -⟩ | ⟨rfl, -⟩ | ⟨rfl, -⟩ | ⟨rfl, -⟩ | ⟨rfl, -⟩ | ⟨rfl, -⟩ | ⟨rfl, -⟩ |
    ⟨rfl, -⟩ | ⟨-, -, hr⟩
  · by_cases hlen : len = 34#24
    · subst hlen; rfl
    · simp [instrOfHeader, typeClassify, hlen, Instr.header]
  iterate 7 · rfl
  · simp [instrOfHeader, hr, Instr.header]

@[simp] theorem decodeHeader_header (layout : HdrLayout) (h : Span 4) :
    (decodeHeader layout h).header = some (hdrDecode layout h) :=
  instrOfHeader_header rfl

/-- The next states a transaction can lead to, each with what must hold before it (R142 to R147). Which failure is raised
after the four bytes is left open: `exec` says that. -/
inductive Served (s : State) : Request → State → Prop
  /-- R144. -/
  | reset : Served s .reset s.doReset
  /-- R143: `START` outside `INIT`. -/
  | startRefused (hst : s.st ≠ .init) : Served s .start (s.respond .refused)
  /-- R143: `STEP` in `INIT`. -/
  | stepRefused (hst : s.st = .init) : Served s .step (s.respond .refused)
  /-- R147. -/
  | ended (hst : s.st = .done) : Served s .step (s.respond .ended)
  /-- R145: the four bytes read are the marker. -/
  | started (hst : s.st = .init) (hpos : s.pos + 4 ≤ s.mem.size) (hm : s.mem.span s.pos 4 = s.cfg.magic) :
      Served s .start { s with st := .scanning, pos := s.pos + 4, resp := some .started }
  /-- R178: the four bytes of the marker or of the header are not all there. -/
  | truncated {r : Request} (hst : r = .start ∧ s.st = .init ∨ r = .step ∧ s.st = .scanning)
      (hpos : s.mem.size < s.pos + 4) : Served s r (s.raise .truncatedRead (countInfo 4))
  /-- R176: a failure after the four bytes of the marker or of the header have been read. -/
  | failed {r : Request} (hst : r = .start ∧ s.st = .init ∨ r = .step ∧ s.st = .scanning)
      (hpos : s.pos + 4 ≤ s.mem.size) (k : FailKind) (info : BitVec 32) :
      Served s r (({ s with pos := s.pos + 4 } : State).raise k info)
  /-- R146: the block at the cursor, read whole. -/
  | yielded (hst : s.st = .scanning) (hdr : BlockHeader) (hhdr : hdr = hdrDecode s.cfg.layout (s.mem.span s.pos 4))
      (hpos : s.pos + 4 + hdr.len.toNat ≤ s.mem.size) :
      Served s .step (({ s with pos := s.pos + 4 + hdr.len.toNat } : State).yieldRec
        (blockRecord { s with pos := s.pos + 4 } hdr))
  /-- R9: a function unit's answer. -/
  | unit (call : UnitCall) (result : UnitResult) : Served s (.unit call) (s.respond (.unit result))

theorem served_of_commandStart {s t : State} (h : commandStart s = .next t) : Served s .start t := by
  rcases commandStart_cases s with ⟨hst, he⟩ | ⟨hst, hpos, he⟩ | ⟨hst, hpos, he⟩ <;> rw [he] at h
  · cases h; exact .startRefused hst
  · cases h; exact .truncated (.inl ⟨rfl, hst⟩) hpos
  · rcases exec_cases h with ⟨k, info, rfl⟩ | ⟨_, hi, -⟩ | ⟨hi, rfl⟩ | ⟨_, hi, -⟩
    · exact .failed (.inl ⟨rfl, hst⟩) hpos k info
    · cases hi
    · injection hi with hm; exact .started hst hpos hm
    · cases hi

theorem served_of_commandStep {s t : State} (h : commandStep s = .next t) : Served s .step t := by
  rcases commandStep_cases s with ⟨hst, he⟩ | ⟨hst, he⟩ | ⟨hst, hpos, he⟩ | ⟨hst, hpos, he⟩ <;> rw [he] at h
  · cases h; exact .stepRefused hst
  · cases h; exact .ended hst
  · cases h; exact .truncated (.inr ⟨rfl, hst⟩) hpos
  · have hhdr := decodeHeader_header s.cfg.layout (s.mem.span s.pos 4)
    rcases exec_cases h with ⟨k, info, rfl⟩ | ⟨hdr, hi, hlen, rfl⟩ | ⟨hi, -⟩ | ⟨_, hi, -⟩
    · exact .failed (.inr ⟨rfl, hst⟩) hpos k info
    · rw [hhdr] at hi
      injection hi with hi
      exact .yielded hst hdr hi.symm (by simp only at hlen; omega)
    · rw [hi] at hhdr; cases hhdr
    · rw [hi] at hhdr; cases hhdr

/-- All a transaction can do, if it is served. -/
theorem served_of_serve {r : Request} {s t : State} (h : serve r s = .next t) : Served s r t := by
  cases r with
  | reset => cases h; exact .reset
  | start => exact served_of_commandStart h
  | step => exact served_of_commandStep h
  | unit call =>
    rcases applyUnit_cases call s with ⟨result, he⟩ | he
    · cases he.symm.trans h; exact .unit call result
    · cases he.symm.trans h

/-- R25: what a served transaction does to `OUT`, by the answer it gives. `START` itself does not write `OUT` (log 21), so
that it is none once a chain has started is taken from the state in `INIT` before it (R32 item 1). -/
theorem Served.out_of_resp {s t : State} {r : Request} (h : Served s r t) (hinit : s.st = .init → s.out = none) :
    (t.resp = some .resetDone → t.out = none) ∧ (t.resp = some .started → t.out = none) ∧
      (∀ k info, t.resp = some (.failed k info) → t.out = none) ∧ (t.resp = some .ended → t.out = s.out) := by
  cases h with
  | started hst => simp [hinit hst]
  | reset | truncated | failed | startRefused | stepRefused | ended | yielded | unit => simp

/-! ## The obligations -/

/-- Settles O27: the reset state field by field, and `RESET` as the one served transaction `State.doReset`. -/
theorem powerOnValues : Obligations.PowerOnValues := by
  refine ⟨⟨rfl, rfl, rfl, rfl, rfl, fun _ => readReg_eq_none_of_out_none rfl⟩, fun s rest hreqs => ?_⟩
  exact ⟨_, step_serve hreqs, rfl, rfl, rfl, rfl, rfl, fun _ => readReg_eq_none_of_out_none rfl, rfl, rfl⟩

/-- Settles O42: the first four clauses by the ways a transaction is served, the last by the registers of an empty `OUT`. -/
theorem outIsEmptiedOrKept : Obligations.OutIsEmptiedOrKept := by
  intro s t r rest hinv hreqs hstep
  have hserved := served_of_serve (step_serve hreqs ▸ hstep)
  have hinit : s.st = .init → s.out = none := fun hst =>
    have ⟨_, _, hout⟩ := hinv.init_clean hst
    hout
  obtain ⟨hreset, hstarted, hfailed, hended⟩ := hserved.out_of_resp hinit
  exact ⟨hreset, hstarted, hfailed, hended, fun hout _ => readReg_eq_none_of_out_none hout⟩

end Sys2Proof.Machine

/-! 20_memory.md: that the bytes a read returns stand in the stream (R43), what a served transaction leaves unchanged at the
other ports (R46, R27), and the obligations about `MemRead` and about the stream. -/

namespace Sys2Proof.Machine

/-- The bytes of a span that lies within the stream stand there; those of an empty span stand everywhere (R57). -/
theorem bytesAt_span {m : Memory} {a n : Nat} (h : n = 0 ∨ a + n ≤ m.size) : bytesAt m a (m.span a n).toList := by
  intro i hi
  have hin : i < n := by simpa using hi
  rw [Memory.read_of_lt (by omega)]
  simp

/-- R46, R27: a served transaction changes neither the stream nor the configuration nor what the caller presents next. -/
theorem Served.frame {s t : State} {r : Request} (h : Served s r t) :
    t.mem = s.mem ∧ t.cfg = s.cfg ∧ t.reqs = s.reqs := by
  cases h with
  | reset | startRefused | stepRefused | ended | started | truncated | failed | yielded | unit => exact ⟨rfl, rfl, rfl⟩

/-- What a step that goes on leaves unchanged: an idle core changes nothing, and a served transaction has been taken from the
caller's script before it is served. -/
theorem step_frame {s t : State} (h : step s = .next t) : t.mem = s.mem ∧ t.cfg = s.cfg ∧ t.reqs = s.reqs.tail := by
  rcases step_cases h with ⟨hidle, rfl⟩ | ⟨r, rest, hreqs, hserve⟩
  · simp [hidle]
  · simpa [hreqs] using (served_of_serve hserve).frame

/-- Settles O21, by the two outcomes of a read. -/
theorem memReadIsAllOrNothing : Obligations.MemReadIsAllOrNothing := by
  intro s n
  exact ⟨fun h => ⟨s.mem.span s.pos n, memRead_ok h, bytesAt_span h⟩, memRead_fail⟩

/-- Settles O22: the same stream holds the same bytes. -/
theorem streamIsNeverWritten : Obligations.StreamIsNeverWritten := by
  intro s t hstep
  obtain ⟨hmem, hcfg, hreqs⟩ := step_frame hstep
  exact ⟨fun a => by rw [hmem], hmem, hcfg, hreqs⟩

end Sys2Proof.Machine

/-! 30_encoding.md: where the bytes of a header stand in its word `W` (R62), and the obligation about its three fields. -/

namespace Sys2Proof.Machine

/-! ## Byte 0 and bytes 1 to 3 as bits of `W` -/

/-- The bits of `W` from 24 up are those of byte 0. -/
theorem be32_getLsbD_add_24 (h : Span 4) (i : Nat) : (be32 h).getLsbD (24 + i) = h[0].getLsbD i := by
  have h1 := h[1].isLt
  have h2 := h[2].isLt
  have h3 := h[3].isLt
  have hdiv : (be32 h).toNat / 2 ^ 24 = h[0].toNat := by
    rw [be32_toNat]
    omega
  simp only [BitVec.getLsbD, ← hdiv, Nat.testBit_div_two_pow, Nat.add_comm]

theorem be32_extractLsb'_add_24 (h : Span 4) (i n : Nat) :
    (be32 h).extractLsb' (24 + i) n = h[0].extractLsb' i n := by
  refine BitVec.eq_of_getLsbD_eq fun j _ => ?_
  simp only [BitVec.getLsbD_extractLsb', Nat.add_assoc, be32_getLsbD_add_24]

/-- `W[23:0]` is the big-endian value of bytes 1 to 3. -/
theorem be32_extractLsb'_0_24 (h : Span 4) : (be32 h).extractLsb' 0 24 = u24be #v[h[1], h[2], h[3]] := by
  have h1 := h[1].isLt
  have h2 := h[2].isLt
  have h3 := h[3].isLt
  refine BitVec.eq_of_toNat_eq ?_
  simp only [BitVec.extractLsb'_toNat, Nat.shiftRight_zero, be32_toNat, u24be_toNat, Vector.getElem_mk,
    List.getElem_toArray, List.getElem_cons_zero, List.getElem_cons_succ]
  omega

/-! ## Byte 0 as a number -/

/-- Under `DOC_LSB_FLAG` the flag is the lowest bit of byte 0, the type code the seven above it. -/
theorem toNat_eq_docLsbFlag (b : Byte) :
    b.toNat = 2 * (typeCode .docLsbFlag b).toNat + (lastFlag .docLsbFlag b).toNat := by
  have hb := b.isLt
  simp only [typeCode, lastFlag, BitVec.extractLsb'_toNat, BitVec.getLsbD, Nat.toNat_testBit, Nat.shiftRight_eq_div_pow]
  omega

/-- Under `FLAC_MSB_FLAG` the flag is the highest bit of byte 0, the type code the seven below it. -/
theorem toNat_eq_flacMsbFlag (b : Byte) :
    b.toNat = 128 * (lastFlag .flacMsbFlag b).toNat + (typeCode .flacMsbFlag b).toNat := by
  have hb := b.isLt
  simp only [typeCode, lastFlag, BitVec.extractLsb'_toNat, BitVec.getLsbD, Nat.toNat_testBit, Nat.shiftRight_eq_div_pow]
  omega

/-- The length of a header is the same under both layouts: the number its bytes 1 to 3 give. -/
theorem hdrDecode_len_toNat (layout : HdrLayout) (h : Span 4) :
    (hdrDecode layout h).len.toNat = 65536 * h[1].toNat + 256 * h[2].toNat + h[3].toNat :=
  u24be_toNat _

/-! ## The obligation -/

/-- Settles O4: flag and type code by byte 0, whose bits are `W[31:24]`, the length by bytes 1 to 3. -/
theorem headerFieldsStandAtTheirBits : Obligations.HeaderFieldsStandAtTheirBits := by
  intro h
  refine ⟨⟨toNat_eq_docLsbFlag h[0], ?_, ?_⟩, ⟨toNat_eq_flacMsbFlag h[0], ?_, ?_⟩, fun layout => ?_⟩
  · exact (be32_extractLsb'_add_24 h 1 7).symm
  · exact (be32_getLsbD_add_24 h 0).symm
  · exact (be32_getLsbD_add_24 h 7).symm
  · exact (be32_extractLsb'_add_24 h 0 7).symm
  · exact ⟨hdrDecode_len_toNat layout h, (be32_extractLsb'_0_24 h).symm⟩

end Sys2Proof.Machine

/-! 40_bitfield_extractor.md: what a direct application of a unit to a list of bytes does, by the length of the list, and the
obligations about the answer (R91, R92) and about the refusal (R93, R104). -/

namespace Sys2Proof.Machine

/-! ## A span of the right length -/

theorem applyUnit_u16be_toList (b : Span 2) (s : State) :
    applyUnit (.u16be b.toList) s = .next (s.respond (.unit (.u16 (u16be b)))) := by
  simp only [applyUnit, Span.ofList_toList]

theorem applyUnit_u24be_toList (b : Span 3) (s : State) :
    applyUnit (.u24be b.toList) s = .next (s.respond (.unit (.u24 (u24be b)))) := by
  simp only [applyUnit, Span.ofList_toList]

/-! ## A list of any other length -/

theorem applyUnit_u16be_of_length_ne {span : List Byte} (h : span.length ≠ 2) (s : State) :
    applyUnit (.u16be span) s = .refused .preconditionViolation := by
  simp only [applyUnit, Span.ofList_none_iff.mpr h]

theorem applyUnit_u24be_of_length_ne {span : List Byte} (h : span.length ≠ 3) (s : State) :
    applyUnit (.u24be span) s = .refused .preconditionViolation := by
  simp only [applyUnit, Span.ofList_none_iff.mpr h]

theorem applyUnit_hdrDecode_of_length_ne {span : List Byte} (h : span.length ≠ 4) (s : State) :
    applyUnit (.hdrDecode span) s = .refused .preconditionViolation := by
  simp only [applyUnit, Span.ofList_none_iff.mpr h]

/-! ## The obligations -/

/-- Settles O1: the step serves the application, whose answer is the unpacker's value, and that value as a number. -/
theorem unpackersAnswerBigEndianValue : Obligations.UnpackersAnswerBigEndianValue := by
  intro s rest b0 b1 b2
  refine ⟨fun hreqs => ⟨u16be #v[b0, b1], ?_, u16be_toNat _⟩, fun hreqs => ⟨u24be #v[b0, b1, b2], ?_, u24be_toNat _⟩⟩
  · exact (step_serve hreqs).trans (applyUnit_u16be_toList #v[b0, b1] _)
  · exact (step_serve hreqs).trans (applyUnit_u24be_toList #v[b0, b1, b2] _)

/-- Settles O2: the step serves the application, and each unit refuses a list that is no span of its length. -/
theorem wrongSpanLengthIsRefused : Obligations.WrongSpanLengthIsRefused := by
  intro s rest span
  refine ⟨fun hreqs hlen => ?_, fun hreqs hlen => ?_, fun hreqs hlen => ?_⟩
  · exact (step_serve hreqs).trans (applyUnit_u16be_of_length_ne hlen _)
  · exact (step_serve hreqs).trans (applyUnit_u24be_of_length_ne hlen _)
  · exact (step_serve hreqs).trans (applyUnit_hdrDecode_of_length_ne hlen _)

end Sys2Proof.Machine

/-! 41_header_decoder.md: which codes are reserved, what a direct application of `HDR.DECODE` to four bytes does, and the
obligations about the classes (R102) and about the answer (R101). -/

namespace Sys2Proof.Machine

/-- R102: outside 0 to 6 and 127, the class keeps the code. -/
theorem typeClassify_of_reserved {c : BitVec 7} (hlo : 7 ≤ c.toNat) (hhi : c.toNat ≤ 126) :
    typeClassify c = .reserved c := by
  rcases typeClassify_cases c with ⟨rfl, -⟩ | ⟨rfl, -⟩ | ⟨rfl, -⟩ | ⟨rfl, -⟩ | ⟨rfl, -⟩ | ⟨rfl, -⟩ | ⟨rfl, -⟩ |
    ⟨rfl, -⟩ | ⟨-, -, hres⟩
  iterate 7 · exact absurd hlo (by decide)
  · exact absurd hhi (by decide)
  · exact hres

theorem applyUnit_hdrDecode_toList (h : Span 4) (s : State) :
    applyUnit (.hdrDecode h.toList) s = .next (s.respond (.unit (.header (hdrDecode s.cfg.layout h)))) := by
  simp only [applyUnit, Span.ofList_toList]

/-! ## The obligations -/

/-- Settles O5: the eight codes with a class of their own one by one, all others by their range. -/
theorem typeCodesClassifyTotally : Obligations.TypeCodesClassifyTotally :=
  ⟨rfl, rfl, rfl, rfl, rfl, rfl, rfl, rfl, fun _ => typeClassify_of_reserved⟩

/-- Settles O6: the step serves the application, whose answer is the header the unit decodes under the configured layout;
flag and code make up byte 0 as that layout places them. -/
theorem headerUnitAnswersHeader : Obligations.HeaderUnitAnswersHeader := by
  intro s rest
  refine ⟨fun h hreqs => ⟨hdrDecode s.cfg.layout h, ?_, fun hdoc => ?_, fun hflac => ?_, ?_, rfl⟩, fun c hreqs => ?_⟩
  · exact (step_serve hreqs).trans (applyUnit_hdrDecode_toList h _)
  · rw [hdoc]
    exact toNat_eq_docLsbFlag h[0]
  · rw [hflac]
    exact toNat_eq_flacMsbFlag h[0]
  · exact hdrDecode_len_toNat s.cfg.layout h
  · exact step_serve hreqs

end Sys2Proof.Machine

/-! 42_streaminfo_decoder.md: the value of each field of a STREAMINFO payload as a number (R121 to R129), and the obligations
about the nine outputs of `SI.DECODE` and about the source's test vector (R136). -/

namespace Sys2Proof.Machine

/-! ## The four fields that are bits of bytes 10 to 17 -/

/-- The left part of a concatenation stands above the `n` bits of the right one. -/
theorem toNat_append_eq_add {m n : Nat} (x : BitVec m) (y : BitVec n) :
    (x ++ y).toNat = x.toNat * 2 ^ n + y.toNat := by
  rw [BitVec.toNat_append, ← Nat.shiftLeft_add_eq_or_of_lt y.isLt, Nat.shiftLeft_eq]

/-- R125: a shift by four drops the low nibble of byte 12. -/
theorem siRate_toNat (p : Span 34) :
    (siRate p).toNat = 4096 * p[10].toNat + 16 * p[11].toNat + p[12].toNat / 16 := by
  have h10 := p[10].isLt
  have h11 := p[11].isLt
  have h12 := p[12].isLt
  have hbytes : (u24be #v[p[10], p[11], p[12]]).toNat = 65536 * p[10].toNat + 256 * p[11].toNat + p[12].toNat :=
    u24be_toNat _
  rw [siRate, BitVec.toNat_setWidth, BitVec.toNat_ushiftRight, hbytes, Nat.shiftRight_eq_div_pow]
  omega

theorem siChanRaw_toNat (p : Span 34) : (siChanRaw p).toNat = p[12].toNat / 2 % 8 := by
  rw [siChanRaw, BitVec.extractLsb'_toNat, Nat.shiftRight_eq_div_pow]

theorem siBpsRaw_toNat (p : Span 34) : (siBpsRaw p).toNat = 16 * (p[12].toNat % 2) + p[13].toNat / 16 := by
  have h13 := p[13].isLt
  simp only [siBpsRaw, toNat_append_eq_add, BitVec.extractLsb'_toNat, Nat.shiftRight_eq_div_pow]
  omega

theorem siTotal_toNat (p : Span 34) :
    (siTotal p).toNat = 2 ^ 32 * (p[13].toNat % 16) + 2 ^ 24 * p[14].toNat + 65536 * p[15].toNat + 256 * p[16].toNat +
      p[17].toNat := by
  simp only [siTotal, toNat_append_eq_add, BitVec.extractLsb'_toNat, Nat.shiftRight_zero]
  omega

/-! ## The two fields that are stored minus one -/

/-- R126: the addition cannot overflow, 7 + 1 = 8 fits in four bits. -/
theorem channelsOfRaw_toNat (v : BitVec 3) : (channelsOfRaw v).toNat = v.toNat + 1 := by
  have hv := v.isLt
  rw [channelsOfRaw, BitVec.toNat_add, BitVec.toNat_setWidth, BitVec.toNat_ofNat]
  omega

/-- R127: the addition cannot overflow, 31 + 1 = 32 fits in six bits. -/
theorem bpsOfRaw_toNat (v : BitVec 5) : (bpsOfRaw v).toNat = v.toNat + 1 := by
  have hv := v.isLt
  rw [bpsOfRaw, BitVec.toNat_add, BitVec.toNat_setWidth, BitVec.toNat_ofNat]
  omega

/-! ## The obligations -/

/-- Settles O14: each output by the number its unit computes from the payload's bytes. -/
theorem streamInfoFieldValues : Obligations.StreamInfoFieldValues := by
  intro p
  refine ⟨u16be_toNat _, u16be_toNat _, u24be_toNat _, u24be_toNat _, siRate_toNat p, ?channels, ?bps, siTotal_toNat p,
    siMd5_getElem p⟩
  case channels => exact (channelsOfRaw_toNat _).trans (congrArg (· + 1) (siChanRaw_toNat p))
  case bps => exact (bpsOfRaw_toNat _).trans (congrArg (· + 1) (siBpsRaw_toNat p))

/-- Settles O17: both sides are closed, so the decoder is run on the vector. -/
theorem sourceVectorDecodes : Obligations.SourceVectorDecodes := by
  unfold Obligations.SourceVectorDecodes
  decide

end Sys2Proof.Machine

/-! 43_chain_sequencer.md: what the commands do in each state of the sequencer (R143 to R147), what the block arms do with the
bytes that stand at the cursor (R148 to R156), and the obligations about both. -/

namespace Sys2Proof.Machine

/-! ## Reading bytes that stand at the cursor -/

theorem bytesAt_toList_le {m : Memory} {a n : Nat} {p : Span n} (h : bytesAt m a p.toList) :
    n = 0 ∨ a + n ≤ m.size := by
  rcases Nat.eq_zero_or_pos n with h0 | hpos
  · exact .inl h0
  · have hne : p.toList ≠ [] := List.ne_nil_of_length_pos (by simpa using hpos)
    exact .inr (by simpa using bytesAt_size h hne)

theorem memRead_of_bytesAt {s : State} {n : Nat} {p : Span n} (h : bytesAt s.mem s.pos p.toList) :
    memRead s n = some (p, { s with pos := s.pos + n }) := by
  rw [memRead_ok (bytesAt_toList_le h), span_of_bytesAt h]

/-! ## The commands by the state they meet -/

/-- R143. -/
theorem commandStart_refused {s : State} (hst : s.st ≠ .init) : commandStart s = .next (s.respond .refused) := by
  rcases commandStart_cases s with ⟨-, he⟩ | ⟨hinit, -⟩ | ⟨hinit, -⟩
  · exact he
  all_goals exact absurd hinit hst

/-- R178: fewer than four bytes are left for the marker. -/
theorem commandStart_truncated {s : State} (hst : s.st = .init) (hpos : s.mem.size < s.pos + 4) :
    commandStart s = .next (s.raise .truncatedRead (countInfo 4)) := by
  rcases commandStart_cases s with ⟨hne, -⟩ | ⟨-, -, he⟩ | ⟨-, hle, -⟩
  · exact absurd hst hne
  · exact he
  · omega

/-- R145: four bytes stand at the cursor, and `START` compares them. -/
theorem commandStart_of_bytesAt {s : State} {m : Span 4} (hst : s.st = .init) (hm : bytesAt s.mem s.pos m.toList) :
    commandStart s = execMagic m { s with pos := s.pos + 4 } := by
  have hle := bytesAt_toList_le hm
  rcases commandStart_cases s with ⟨hne, -⟩ | ⟨-, hlt, -⟩ | ⟨-, -, he⟩
  · exact absurd hst hne
  · omega
  · rw [he, span_of_bytesAt hm]
    rfl

/-- R143. -/
theorem commandStep_refused {s : State} (hst : s.st = .init) : commandStep s = .next (s.respond .refused) := by
  simp only [commandStep, hst]

/-- R147. -/
theorem commandStep_ended {s : State} (hst : s.st = .done) : commandStep s = .next (s.respond .ended) := by
  simp only [commandStep, hst]

theorem step_eq_ended {s : State} {rest : List Request} (hst : s.st = .done) (hreqs : s.reqs = .step :: rest) :
    step s = .next (({ s with reqs := rest } : State).respond .ended) :=
  (step_serve hreqs).trans (commandStep_ended hst)

/-! ## What a transaction other than `RESET` leaves -/

/-- In `DONE` every transaction but `RESET` only answers. -/
theorem Served.eq_respond_of_done {s t : State} {r : Request} (h : Served s r t) (hr : r ≠ .reset) (hst : s.st = .done) :
    ∃ answer, t = s.respond answer := by
  cases h with
  | reset => exact absurd rfl hr
  | startRefused | ended | unit => exact ⟨_, rfl⟩
  | stepRefused hst' | started hst' | truncated hst' | failed hst' | yielded hst' => simp [hst] at hst'

/-- No transaction but `RESET` clears `ERR`: a failure entry sets it, the others do not write it. -/
theorem Served.err_ne_none {s t : State} {r : Request} (h : Served s r t) (hr : r ≠ .reset) (herr : s.err ≠ .none) :
    t.err ≠ .none := by
  cases h with
  | reset => exact absurd rfl hr
  | truncated | failed => simp
  | startRefused | stepRefused | ended | started | yielded | unit => exact herr

/-! ## Yields -/

@[simp] theorem blockRecord_hdr (s : State) (h : BlockHeader) : (blockRecord s h).hdr = h := by
  unfold blockRecord
  cases h.tclass <;> rfl

/-- R146: the answer `Yielded` is given for a block read whole in `SCANNING`, whose header is that of the record. -/
theorem Served.of_yielded {s t : State} {r : Request} {rec : Record} (h : Served s r t)
    (hresp : t.resp = some (.yielded rec)) :
    s.st = .scanning ∧ rec.hdr = hdrDecode s.cfg.layout (s.mem.span s.pos 4) ∧
      s.pos + 4 + rec.hdr.len.toNat ≤ s.mem.size ∧
      t = ({ s with pos := s.pos + 4 + rec.hdr.len.toNat } : State).yieldRec rec := by
  cases h with
  | yielded hst hdr hhdr hpos =>
    obtain rfl : blockRecord { s with pos := s.pos + 4 } hdr = rec := by simpa using hresp
    rw [blockRecord_hdr]
    exact ⟨hst, hhdr, hpos, rfl⟩
  | reset | startRefused | stepRefused | ended | started | truncated | failed | unit => simp at hresp

/-! ## Runs by their first step -/

theorem runSteps_succ_of_next {s t : State} (h : step s = .next t) (k : Nat) : runSteps (k + 1) s = runSteps k t := by
  simp only [runSteps, h]

theorem responses_succ_of_next {s t : State} (h : step s = .next t) (k : Nat) :
    responses (k + 1) s = t.resp.toList ++ responses k t := by
  simp only [responses, h]

/-! ## The block arms -/

/-- R171: a truncated skip records the length, widened. -/
theorem opaqueBlock_truncated {hdr : BlockHeader} {warn : Bool} {s : State} (h0 : hdr.len.toNat ≠ 0)
    (h : s.mem.size < s.pos + hdr.len.toNat) :
    opaqueBlock hdr warn s = .next (s.raise .truncatedRead (hdr.len.setWidth 32)) := by
  rw [opaqueBlock_fail h0 h, countInfo, BitVec.ofNat_toNat]

theorem unsupportedBlock_abort {hdr : BlockHeader} {s : State} (hp : s.cfg.policy = .abort) :
    unsupportedBlock hdr s = .next (s.raise .reservedOrInvalidBlockType (hdrWord s.cfg.layout hdr)) := by
  simp only [unsupportedBlock, hp]

theorem unsupportedBlock_skip {hdr : BlockHeader} {s : State} (hp : s.cfg.policy = .skip) :
    unsupportedBlock hdr s = opaqueBlock hdr true s := by
  simp only [unsupportedBlock, hp]

theorem execStreaminfo_of_bytesAt {s : State} {p : Span 34} (last : Bool) (hp : bytesAt s.mem s.pos p.toList) :
    execStreaminfo last s = .next (({ s with pos := s.pos + 34 } : State).yieldRec
      (record .streaminfoRec (blockHdr last 0#7 .streamInfo 34#24) false (some (siDecode p)))) := by
  rw [execStreaminfo, memRead_of_bytesAt hp]

theorem execStreaminfo_truncated {s : State} (last : Bool) (h : s.mem.size < s.pos + 34) :
    execStreaminfo last s = .next (s.raise .truncatedRead (countInfo 34)) := by
  rw [execStreaminfo, memRead_fail (by decide) h]

/-! ## The obligations about the commands -/

/-- Settles O26: `RESET` is served as `State.doReset`; the other two clauses go by the ways a transaction is served. -/
theorem resetClearsTheMachine : Obligations.ResetClearsTheMachine := by
  intro s r rest hreqs
  have hserved : ∀ t, step s = .next t → Served { s with reqs := rest } r t := fun t hstep =>
    served_of_serve (step_serve hreqs ▸ hstep)
  refine ⟨?_, fun t hr hst hstep => ?_, fun t hr herr hstep => (hserved t hstep).err_ne_none hr herr⟩
  · rintro rfl
    exact step_serve hreqs
  · obtain ⟨answer, rfl⟩ := (hserved t hstep).eq_respond_of_done hr hst
    exact ⟨hst, rfl, rfl, rfl, rfl⟩

/-- Settles O28: both commands answer without a read. -/
theorem wrongStateCommandsAreRefused : Obligations.WrongStateCommandsAreRefused := fun _ _ =>
  ⟨fun hreqs hst => (step_serve hreqs).trans (commandStart_refused hst),
    fun hreqs hst => (step_serve hreqs).trans (commandStep_refused hst)⟩

/-- Settles O29: `START` by the state and the bytes left, then the comparison of the four bytes read. -/
theorem startVerifiesTheMarker : Obligations.StartVerifiesTheMarker := by
  intro s rest hreqs
  rw [step_serve hreqs]
  refine ⟨fun hst => commandStart_refused hst, fun hst hlt => commandStart_truncated hst hlt,
    fun m hst hm heq => ?_, fun m hst hm hne => ?_⟩
  · exact (commandStart_of_bytesAt (s := { s with reqs := rest }) hst hm).trans (if_pos heq)
  · exact (commandStart_of_bytesAt (s := { s with reqs := rest }) hst hm).trans (if_neg hne)

/-- Settles O32, by induction on the number of further `STEP`s: the first leaves the machine in `DONE`, with one `STEP` less
in the script. -/
theorem doneAnswersEndForever : Obligations.DoneAnswersEndForever := by
  intro k
  induction k with
  | zero =>
    intro s rest hst hreqs
    have hstep := step_eq_ended hst hreqs
    rw [runSteps_succ_of_next hstep, responses_succ_of_next hstep]
    exact ⟨rfl, rfl⟩
  | succ k ih =>
    intro s rest hst hreqs
    let later := List.replicate (k + 1) .step ++ rest
    have hstep : step s = .next (({ s with reqs := later } : State).respond .ended) := step_eq_ended hst hreqs
    rw [runSteps_succ_of_next hstep, responses_succ_of_next hstep]
    obtain ⟨hrun, hresp⟩ := ih (({ s with reqs := later } : State).respond .ended) rest hst rfl
    exact ⟨hrun, congrArg (Response.ended :: ·) hresp⟩

/-- Settles O37: a yield is the one way of being served that gives this answer, and the four bytes of the header were there. -/
theorem lastFlagEndsTheChain : Obligations.LastFlagEndsTheChain := by
  intro s t rest rec hreqs hstep hresp
  have hserved := served_of_serve (step_serve hreqs ▸ hstep)
  obtain ⟨hst, hhdr, hpos, rfl⟩ := hserved.of_yielded hresp
  have hflag : afterYield rec.hdr.last s.st = if rec.hdr.last = true then .done else .scanning := by
    rw [afterYield, hst]
  exact ⟨hst, hflag, rfl, rfl, rfl, rfl, s.mem.span s.pos 4, bytesAt_span (.inr (by simp only at hpos; omega)), hhdr⟩

/-! ## The obligations about the block arms -/

/-- Settles O34: each of the six arms is the opaque block of its header. -/
theorem opaqueArmsSkipAndYield : Obligations.OpaqueArmsSkipAndYield := by
  intro i hdr s last len hmem
  have harm : exec i s = opaqueBlock hdr false s ∧ hdr.last = last ∧ hdr.len = len := by
    simp only [List.mem_cons, List.not_mem_nil, or_false, Prod.mk.injEq] at hmem
    rcases hmem with ⟨rfl, rfl⟩ | ⟨rfl, rfl⟩ | ⟨rfl, rfl⟩ | ⟨rfl, rfl⟩ | ⟨rfl, rfl⟩ | ⟨rfl, rfl⟩
    all_goals exact ⟨rfl, rfl, rfl⟩
  obtain ⟨hexec, rfl, rfl⟩ := harm
  rw [hexec]
  exact ⟨opaqueBlock_ok, opaqueBlock_truncated⟩

/-- Settles O35: the payload's read, and the mismatch that comes before it. -/
theorem streamInfoArmDecodesOrFails : Obligations.StreamInfoArmDecodesOrFails := fun _ last =>
  ⟨fun _ => execStreaminfo_of_bytesAt last, execStreaminfo_truncated last, fun _ _ => rfl⟩

/-- Settles O36: both arms are the unsupported block of their header, which fails or is skipped by the policy. -/
theorem reservedArmsFollowThePolicy : Obligations.ReservedArmsFollowThePolicy := by
  intro i hdr s last tcode len _ _ hmem
  have harm : exec i s = unsupportedBlock hdr s ∧ hdr.last = last ∧ hdr.len = len := by
    simp only [List.mem_cons, List.not_mem_nil, or_false, Prod.mk.injEq] at hmem
    rcases hmem with ⟨rfl, rfl⟩ | ⟨rfl, rfl⟩
    all_goals exact ⟨rfl, rfl, rfl⟩
  obtain ⟨hexec, rfl, rfl⟩ := harm
  rw [hexec]
  refine ⟨unsupportedBlock_abort, fun hp hlen => ?_, fun hp h0 hlen => ?_⟩
  · exact (unsupportedBlock_skip hp).trans (opaqueBlock_ok hlen)
  · exact (unsupportedBlock_skip hp).trans (opaqueBlock_truncated h0 hlen)

end Sys2Proof.Machine

/-! 60_exceptions.md: that the word of a decoded header is the word read (R180), what the instruction a header selects does by
the header's code, and the obligations about the idle core (R189), about truncated reads (R178) and about the failures taken
on the header alone (R179, R180). -/

namespace Sys2Proof.Machine

/-! ## The word of a decoded header -/

/-- The three bytes of a 24-bit value are those it was read from. -/
theorem u24be_bytes (b : Span 3) :
    (u24be b).extractLsb' 16 8 = b[0] ∧ (u24be b).extractLsb' 8 8 = b[1] ∧ (u24be b).extractLsb' 0 8 = b[2] := by
  have h0 := b[0].isLt
  have h1 := b[1].isLt
  have h2 := b[2].isLt
  refine ⟨?_, ?_, ?_⟩
  all_goals
    refine BitVec.eq_of_toNat_eq ?_
    rw [BitVec.extractLsb'_toNat, u24be_toNat, Nat.shiftRight_eq_div_pow]
    omega

theorem hdrEncode_hdrDecode (layout : HdrLayout) (h : Span 4) :
    hdrEncode layout (hdrDecode layout h).last (hdrDecode layout h).tcode (hdrDecode layout h).len = h := by
  obtain ⟨hlen1, hlen2, hlen3⟩ := u24be_bytes #v[h[1], h[2], h[3]]
  refine Span.ext4 h ?byte0 hlen1 hlen2 hlen3
  case byte0 =>
    refine BitVec.eq_of_toNat_eq ?_
    cases layout with
    | docLsbFlag =>
      rw [toNat_append_eq_add, BitVec.toNat_ofBool, toNat_eq_docLsbFlag h[0], Nat.mul_comm]
      rfl
    | flacMsbFlag =>
      rw [toNat_append_eq_add, BitVec.toNat_ofBool, toNat_eq_flacMsbFlag h[0], Nat.mul_comm]
      rfl

theorem hdrWord_hdrDecode (layout : HdrLayout) (h : Span 4) : hdrWord layout (hdrDecode layout h) = be32 h := by
  rw [hdrWord, hdrEncode_hdrDecode]

/-! ## `STEP` by the bytes at the cursor -/

/-- R178: fewer than four bytes are left for a header. -/
theorem commandStep_truncated {s : State} (hst : s.st = .scanning) (hpos : s.mem.size < s.pos + 4) :
    commandStep s = .next (s.raise .truncatedRead (countInfo 4)) := by
  simp only [commandStep, hst, memRead_fail (by decide) hpos]

/-- R146: four bytes stand at the cursor, and `STEP` runs the instruction their header selects. -/
theorem commandStep_of_bytesAt {s : State} {h : Span 4} (hst : s.st = .scanning) (hh : bytesAt s.mem s.pos h.toList) :
    commandStep s = exec (decodeHeader s.cfg.layout h) { s with pos := s.pos + 4 } := by
  rw [commandStep, hst]
  simp only [memRead_of_bytesAt hh, hst]

theorem step_of_header {s : State} {rest : List Request} {h : Span 4} (hreqs : s.reqs = .step :: rest)
    (hst : s.st = .scanning) (hh : bytesAt s.mem s.pos h.toList) :
    step s = exec (decodeHeader s.cfg.layout h) { s with reqs := rest, pos := s.pos + 4 } :=
  (step_serve hreqs).trans (commandStep_of_bytesAt (s := { s with reqs := rest }) hst hh)

/-! ## The instruction a header selects -/

section
variable {hdr : BlockHeader} (hclass : hdr.tclass = typeClassify hdr.tcode)
include hclass

/-- The code of a header is STREAMINFO's, one of an opaque block, or one that the policy decides on; which instruction it
selects, and which headers of the kind are admitted. -/
theorem exec_instrOfHeader_cases (s : State) :
    (hdr.tcode = 0#7 ∧ (admitted s.cfg hdr = true ↔ hdr.len = 34#24) ∧
      (hdr.len = 34#24 → exec (instrOfHeader hdr) s = execStreaminfo hdr.last s) ∧
      (hdr.len ≠ 34#24 →
        exec (instrOfHeader hdr) s = .next (s.raise .payloadLengthMismatch (hdrWord s.cfg.layout hdr)))) ∨
    (hdr.tcode ≠ 0#7 ∧ hdr.tcode.toNat < 7 ∧ exec (instrOfHeader hdr) s = opaqueBlock hdr false s) ∨
    (7 ≤ hdr.tcode.toNat ∧ (admitted s.cfg hdr = true ↔ s.cfg.policy = .skip) ∧
      exec (instrOfHeader hdr) s = unsupportedBlock hdr s) := by
  obtain ⟨last, tcode, tclass, len⟩ := hdr
  obtain rfl : tclass = typeClassify tcode := hclass
  rcases typeClassify_cases tcode with ⟨rfl, -⟩ | ⟨rfl, -⟩ | ⟨rfl, -⟩ | ⟨rfl, -⟩ | ⟨rfl, -⟩ | ⟨rfl, -⟩ | ⟨rfl, -⟩ |
    ⟨rfl, -⟩ | ⟨hlo, -, hres⟩
  · refine .inl ⟨rfl, beq_iff_eq, fun hlen => ?_, fun hlen => ?_⟩
    · exact congrArg (exec · s) (if_pos hlen)
    · exact congrArg (exec · s) (if_neg hlen)
  iterate 6 · exact .inr (.inl ⟨by simp, by simp, rfl⟩)
  · exact .inr (.inr ⟨by simp, beq_iff_eq, rfl⟩)
  · refine .inr (.inr ⟨hlo, ?_, ?_⟩) <;> rw [hres]
    · exact beq_iff_eq
    · rfl

/-- R178, R179: a payload of an admitted block that is not all there. -/
theorem exec_instrOfHeader_truncated {s : State} (hadm : admitted s.cfg hdr = true) (h0 : hdr.len.toNat ≠ 0)
    (hlt : s.mem.size < s.pos + hdr.len.toNat) :
    exec (instrOfHeader hdr) s = .next (s.raise .truncatedRead (hdr.len.setWidth 32)) := by
  rcases exec_instrOfHeader_cases hclass s with ⟨-, hadm34, hexec, -⟩ | ⟨-, -, hexec⟩ | ⟨-, hskip, hexec⟩
  · have hlen := hadm34.mp hadm
    rw [hlen] at hlt ⊢
    exact (hexec hlen).trans (execStreaminfo_truncated hdr.last hlt)
  · exact hexec.trans (opaqueBlock_truncated h0 hlt)
  · exact hexec.trans ((unsupportedBlock_skip (hskip.mp hadm)).trans (opaqueBlock_truncated h0 hlt))

/-- R180: a STREAMINFO header of any other length. -/
theorem exec_instrOfHeader_badlen {s : State} (hcode : hdr.tcode = 0#7) (hlen : hdr.len ≠ 34#24) :
    exec (instrOfHeader hdr) s = .next (s.raise .payloadLengthMismatch (hdrWord s.cfg.layout hdr)) := by
  rcases exec_instrOfHeader_cases hclass s with ⟨-, -, -, hexec⟩ | ⟨hne, -⟩ | ⟨hge, -⟩
  · exact hexec hlen
  · exact absurd hcode hne
  · simp [hcode] at hge

/-- R179: an unsupported code under `ABORT`. -/
theorem exec_instrOfHeader_abort {s : State} (hcode : 7 ≤ hdr.tcode.toNat) (hp : s.cfg.policy = .abort) :
    exec (instrOfHeader hdr) s = .next (s.raise .reservedOrInvalidBlockType (hdrWord s.cfg.layout hdr)) := by
  rcases exec_instrOfHeader_cases hclass s with ⟨hzero, -⟩ | ⟨-, hlt, -⟩ | ⟨-, -, hexec⟩
  · simp [hzero] at hcode
  · omega
  · exact hexec.trans (unsupportedBlock_abort hp)

end

/-! ## The obligations -/

/-- Settles O33: the core is idle. -/
theorem idleCoreKeepsAllState : Obligations.IdleCoreKeepsAllState := fun _ => step_idle

/-- Settles O39: the first read of either command, and the payload's read by the instruction the header selects. -/
theorem truncatedReadsEndTheChain : Obligations.TruncatedReadsEndTheChain := by
  refine ⟨fun s r rest hreqs hcmd hlt => ?_, fun s rest h hreqs hst hh hadm h0 hlt => ?_⟩
  · rw [step_serve hreqs]
    rcases hcmd with ⟨rfl, hst⟩ | ⟨rfl, hst⟩
    · exact commandStart_truncated hst hlt
    · exact commandStep_truncated hst hlt
  · rw [step_of_header hreqs hst hh]
    exact exec_instrOfHeader_truncated rfl hadm h0 hlt

/-- Settles O40: both failures record the word of the decoded header, which is the word read. -/
theorem headerFailuresRecordTheWord : Obligations.HeaderFailuresRecordTheWord := by
  intro s rest h hreqs hst hh
  rw [step_of_header hreqs hst hh, ← hdrWord_hdrDecode s.cfg.layout h]
  exact ⟨fun hcode hlen => exec_instrOfHeader_badlen rfl hcode hlen,
    fun hcode hp => exec_instrOfHeader_abort rfl hcode hp⟩

end Sys2Proof.Machine

/-! 10_state.md section 12: which record a block yields and when it is admitted (R148 to R156), the block that stands at the
cursor as the one thing `STEP` yields (R146), and the obligations about the invariants (R32, R22). -/

namespace Sys2Proof.Machine

/-! ## The record of a block, by its type code -/

section
variable {hdr : BlockHeader} (hclass : hdr.tclass = typeClassify hdr.tcode)
include hclass

/-- R163 by the code: the kind and the nine fields go with code 0, the warning with the codes from 7 up. -/
theorem blockRecord_eq (s : State) :
    blockRecord s hdr =
      { kind := if hdr.tcode = 0#7 then .streaminfoRec else .opaqueRec
        hdr := hdr
        warn := decide (7 ≤ hdr.tcode.toNat)
        si := if hdr.tcode = 0#7 then some (siDecode (s.mem.span s.pos 34)) else none } := by
  obtain ⟨last, tcode, tclass, len⟩ := hdr
  obtain rfl : tclass = typeClassify tcode := hclass
  rcases typeClassify_cases tcode with ⟨rfl, -⟩ | ⟨rfl, -⟩ | ⟨rfl, -⟩ | ⟨rfl, -⟩ | ⟨rfl, -⟩ | ⟨rfl, -⟩ | ⟨rfl, -⟩ |
    ⟨rfl, -⟩ | ⟨hlo, -, hres⟩
  iterate 8 · rfl
  · have hne : tcode ≠ 0#7 := by rintro rfl; simp at hlo
    simp [blockRecord, hres, record, hlo, hne]

/-- What admits a block (R148, R155, R156): the length for code 0, the policy from code 7 up, nothing between. -/
theorem admitted_iff (cfg : Config) :
    admitted cfg hdr = true ↔
      (hdr.tcode = 0#7 → hdr.len = 34#24) ∧ (7 ≤ hdr.tcode.toNat → cfg.policy = .skip) := by
  obtain ⟨last, tcode, tclass, len⟩ := hdr
  obtain rfl : tclass = typeClassify tcode := hclass
  rcases typeClassify_cases tcode with ⟨rfl, hc⟩ | ⟨rfl, hc⟩ | ⟨rfl, hc⟩ | ⟨rfl, hc⟩ | ⟨rfl, hc⟩ | ⟨rfl, hc⟩ |
    ⟨rfl, hc⟩ | ⟨rfl, hc⟩ | ⟨hlo, -, hc⟩
  iterate 8 · simp [admitted, hc]
  · have hne : tcode ≠ 0#7 := by rintro rfl; simp at hlo
    simp [admitted, hc, hlo, hne]

/-- R24, R32 items 6 and 7: the record an admitted block yields is in order. -/
theorem blockRecord_ok {s : State} (hadm : admitted s.cfg hdr = true) : RecordOk s.cfg (blockRecord s hdr) := by
  obtain ⟨hlen, hskip⟩ := (admitted_iff hclass s.cfg).mp hadm
  rw [blockRecord_eq hclass]
  constructor
  · exact hclass
  · simpa +contextual using hlen
  · by_cases hcode : hdr.tcode = 0#7 <;> simp [hcode]
  · intro hwarn
    have hge : 7 ≤ hdr.tcode.toNat := of_decide_eq_true hwarn
    exact ⟨hskip hge, hge⟩

/-! ## The instruction of an admitted block -/

/-- R148 to R156: an admitted block whose payload is there is read past and yielded. -/
theorem exec_instrOfHeader_of_admitted {s : State} (hadm : admitted s.cfg hdr = true)
    (hlen : s.pos + hdr.len.toNat ≤ s.mem.size) :
    exec (instrOfHeader hdr) s =
      .next (({ s with pos := s.pos + hdr.len.toNat } : State).yieldRec (blockRecord s hdr)) := by
  rw [blockRecord_eq hclass]
  rcases exec_instrOfHeader_cases hclass s with ⟨hcode, hadm34, hexec, -⟩ | ⟨hne, hlt, hexec⟩ | ⟨hge, hskip, hexec⟩
  · have h34 := hadm34.mp hadm
    obtain ⟨last, tcode, tclass, len⟩ := hdr
    obtain rfl : tclass = typeClassify tcode := hclass
    obtain rfl : tcode = 0#7 := hcode
    obtain rfl : len = 34#24 := h34
    exact (hexec rfl).trans (execStreaminfo_of_bytesAt last (bytesAt_span (.inr hlen)))
  · have hnot : ¬ 7 ≤ hdr.tcode.toNat := by omega
    simpa [hne, hnot, record] using hexec.trans (opaqueBlock_ok (.inr hlen))
  · have hne : hdr.tcode ≠ 0#7 := fun hzero => by simp [hzero] at hge
    have hyield := (unsupportedBlock_skip (hskip.mp hadm)).trans (opaqueBlock_ok (.inr hlen))
    simpa [hne, hge, record] using hexec.trans hyield

/-- A block that is not admitted is not yielded: its header alone is a failure (R179, R180). -/
theorem admitted_of_exec_yielded {s t : State} {rec : Record} (hexec : exec (instrOfHeader hdr) s = .next t)
    (hresp : t.resp = some (.yielded rec)) : admitted s.cfg hdr = true := by
  refine (admitted_iff hclass s.cfg).mpr ⟨fun hcode => ?_, fun hcode => ?_⟩
  · by_contra hlen
    cases (exec_instrOfHeader_badlen hclass hcode hlen).symm.trans hexec
    simp at hresp
  · cases hp : s.cfg.policy with
    | skip => rfl
    | abort =>
      cases (exec_instrOfHeader_abort hclass hcode hp).symm.trans hexec
      simp at hresp

end

/-! ## `STEP` and the good block at the cursor -/

theorem goodBlock_eq_some {s : State} {a : Nat} {hdr : BlockHeader} (h : goodBlock s a = some hdr) :
    hdr = hdrDecode s.cfg.layout (s.mem.span a 4) ∧ admitted s.cfg hdr = true ∧
      a + 4 + hdr.len.toNat ≤ s.mem.size := by
  simp only [goodBlock] at h
  split_ifs at h with h4 hgood
  obtain rfl := Option.some.inj h
  exact ⟨rfl, hgood⟩

theorem goodBlock_of {s : State} {a : Nat} {hdr : BlockHeader} (hhdr : hdr = hdrDecode s.cfg.layout (s.mem.span a 4))
    (hadm : admitted s.cfg hdr = true) (hsize : a + 4 + hdr.len.toNat ≤ s.mem.size) : goodBlock s a = some hdr := by
  subst hhdr
  simp only [goodBlock]
  rw [if_pos (by omega), if_pos ⟨hadm, hsize⟩]

/-- The state in which a `STEP` with this block at the cursor leaves the machine (R146, R157). -/
def afterBlock (s : State) (hdr : BlockHeader) (rest : List Request) : State :=
  ({ s with reqs := rest, pos := s.pos + 4 + hdr.len.toNat } : State).yieldRec
    (blockRecord { s with pos := s.pos + 4 } hdr)

/-- R146, its success: a good block at the cursor is yielded. -/
theorem step_of_goodBlock {s : State} {rest : List Request} {hdr : BlockHeader} (hreqs : s.reqs = .step :: rest)
    (hst : s.st = .scanning) (hgood : goodBlock s s.pos = some hdr) : step s = .next (afterBlock s hdr rest) := by
  obtain ⟨rfl, hadm, hsize⟩ := goodBlock_eq_some hgood
  rw [step_of_header hreqs hst (bytesAt_span (.inr (by omega)))]
  exact exec_instrOfHeader_of_admitted (s := { s with reqs := rest, pos := s.pos + 4 }) rfl hadm hsize

/-- R146, the other way round: `STEP` yields nothing else. -/
theorem goodBlock_of_yielded {s t : State} {r : Request} {rest : List Request} {rec : Record}
    (hreqs : s.reqs = r :: rest) (hstep : step s = .next t) (hresp : t.resp = some (.yielded rec)) :
    r = .step ∧ s.st = .scanning ∧ goodBlock s s.pos = some rec.hdr ∧ t = afterBlock s rec.hdr rest := by
  have hserve : serve r { s with reqs := rest } = .next t := step_serve hreqs ▸ hstep
  obtain ⟨hst, hhdr, hsize, -⟩ := (served_of_serve hserve).of_yielded hresp
  have hr : r = .step := by
    cases served_of_serve hserve with
    | yielded => rfl
    | reset | startRefused | stepRefused | ended | started | truncated | failed | unit => simp at hresp
  subst hr
  simp only at hst hhdr hsize
  have hexec := (step_of_header hreqs hst (bytesAt_span (m := s.mem) (.inr (by omega)))).symm.trans hstep
  have hadm : admitted s.cfg rec.hdr = true := by
    rw [hhdr]
    exact admitted_of_exec_yielded (s := { s with reqs := rest, pos := s.pos + 4 }) rfl hexec hresp
  have hgood := goodBlock_of hhdr hadm hsize
  exact ⟨rfl, hst, hgood, by cases (step_of_goodBlock hreqs hst hgood).symm.trans hstep; rfl⟩

/-! ## The invariants -/

/-- The two ports are no part of the invariants. -/
theorem State.Inv.with_ports {s : State} (h : s.Inv) (reqs : List Request) (resp : Option Response) :
    ({ s with reqs := reqs, resp := resp } : State).Inv := by
  obtain ⟨hinit, hscan, hfailed, hdone, hpos, hout, heinfo, hmem⟩ := h
  exact ⟨hinit, hscan, hfailed, hdone, hpos, hout, heinfo, hmem⟩

/-- A failure entry needs nothing of the state but the cursor within a stream in its one form. -/
theorem State.inv_raise {s : State} (hpos : s.pos ≤ s.mem.size) (hmem : s.mem.wf) (k : FailKind) (info : BitVec 32) :
    (s.raise k info).Inv := by
  constructor
  case mem_wf => exact hmem
  all_goals simp [hpos]

theorem State.inv_doReset {s : State} (hmem : s.mem.wf) : s.doReset.Inv := by
  constructor
  case mem_wf => exact hmem
  all_goals simp

/-- R145: in `INIT` the registers are clean, so a chain starts clean. -/
theorem State.Inv.started {s : State} (h : s.Inv) (hst : s.st = .init) (hpos : s.pos + 4 ≤ s.mem.size) :
    ({ s with st := .scanning, pos := s.pos + 4, resp := some .started } : State).Inv := by
  obtain ⟨-, herr, hout⟩ := h.init_clean hst
  have heinfo := h.einfo_clean herr
  constructor
  case mem_wf => exact h.mem_wf
  all_goals simp [herr, hout, heinfo, hpos]

/-- R146, R157: a record in order is yielded in `SCANNING`, with the cursor moved within the stream. -/
theorem State.Inv.yieldRec {s : State} {rec : Record} (h : s.Inv) (hst : s.st = .scanning)
    (hrec : RecordOk s.cfg rec) {pos : Nat} (hle : s.pos ≤ pos) (hpos : pos ≤ s.mem.size) :
    (({ s with pos := pos } : State).yieldRec rec).Inv := by
  obtain ⟨herr, h4⟩ := h.scanning_clean hst
  have heinfo := h.einfo_clean herr
  have h4' : 4 ≤ pos := by omega
  constructor
  case mem_wf => exact h.mem_wf
  all_goals cases hlast : rec.hdr.last <;> simp [herr, heinfo, hst, hpos, hrec, hlast, h4']

/-- R32 along every way of being served; that a yielded block was admitted is not part of `Served`. -/
theorem Served.inv {s t : State} {r : Request} (h : Served s r t) (hinv : s.Inv)
    (hadm : ∀ rec, t.resp = some (.yielded rec) → admitted s.cfg rec.hdr = true) : t.Inv := by
  cases h with
  | reset => exact State.inv_doReset hinv.mem_wf
  | startRefused | stepRefused | ended | unit => exact hinv.with_ports s.reqs _
  | started hst hpos => exact hinv.started hst hpos
  | truncated => exact State.inv_raise hinv.pos_le hinv.mem_wf _ _
  | failed _ hpos k info => exact State.inv_raise (s := { s with pos := s.pos + 4 }) hpos hinv.mem_wf k info
  | yielded hst hdr hhdr hpos =>
    have hclass : hdr.tclass = typeClassify hdr.tcode := hhdr ▸ rfl
    have hadm' : admitted s.cfg hdr = true := by simpa using hadm _ rfl
    have hrec := blockRecord_ok (s := { s with pos := s.pos + 4 }) hclass hadm'
    exact hinv.yieldRec hst hrec (by omega) hpos

/-! ## The obligations -/

/-- Settles O47: every register is clear and the stream is empty. -/
theorem invariantsHoldAtReset : Obligations.InvariantsHoldAtReset := by
  constructor
  case mem_wf => exact Memory.empty_wf
  all_goals simp [State.reset]

/-- Settles O48: an idle step changes nothing; a served transaction keeps the invariants by the way it is served, and a block
that is yielded was admitted. -/
theorem stepKeepsTheInvariants : Obligations.StepKeepsTheInvariants := by
  intro s t hinv hstep
  rcases step_cases hstep with ⟨-, rfl⟩ | ⟨r, rest, hreqs, hserve⟩
  · exact hinv
  · refine (served_of_serve hserve).inv (hinv.with_ports rest s.resp) fun rec hresp => ?_
    obtain ⟨-, -, hgood, -⟩ := goodBlock_of_yielded hreqs hstep hresp
    obtain ⟨-, hadm, -⟩ := goodBlock_eq_some hgood
    exact hadm

end Sys2Proof.Machine

/-! 40_bitfield_extractor.md section 5 and 42_streaminfo_decoder.md section 3: slicing a value into bytes and packing nine stored
fields as the inverses of `U16BE`, `U24BE` and the field extraction, and the obligations about the unpackers, about the
STREAMINFO codec (R135), about what each field depends on (R134), and about the unit `SI.DECODE`. -/

namespace Sys2Proof.Machine

/-! ## The unpackers and the bytes of a value -/

/-- The two bytes of a 16-bit value are those it was read from. -/
theorem u16be_bytes (b : Span 2) : (u16be b).extractLsb' 8 8 = b[0] ∧ (u16be b).extractLsb' 0 8 = b[1] := by
  have h0 := b[0].isLt
  have h1 := b[1].isLt
  refine ⟨?_, ?_⟩
  all_goals
    refine BitVec.eq_of_toNat_eq ?_
    rw [BitVec.extractLsb'_toNat, u16be_toNat, Nat.shiftRight_eq_div_pow]
    omega

theorem u16be_extractLsb' (v : BitVec 16) : u16be #v[v.extractLsb' 8 8, v.extractLsb' 0 8] = v := by
  have hv := v.isLt
  refine BitVec.eq_of_toNat_eq ((u16be_toNat _).trans ?_)
  simp only [Vector.getElem_mk, List.getElem_toArray, List.getElem_cons_zero, List.getElem_cons_succ,
    BitVec.extractLsb'_toNat, Nat.shiftRight_eq_div_pow]
  omega

theorem u24be_extractLsb' (v : BitVec 24) :
    u24be #v[v.extractLsb' 16 8, v.extractLsb' 8 8, v.extractLsb' 0 8] = v := by
  have hv := v.isLt
  refine BitVec.eq_of_toNat_eq ((u24be_toNat _).trans ?_)
  simp only [Vector.getElem_mk, List.getElem_toArray, List.getElem_cons_zero, List.getElem_cons_succ,
    BitVec.extractLsb'_toNat, Nat.shiftRight_eq_div_pow]
  omega

theorem u16be_lt_of_lex {b d : Span 2} (h : b[0] < d[0] ∨ b[0] = d[0] ∧ b[1] < d[1]) : u16be b < u16be d := by
  have hb1 := b[1].isLt
  simp only [BitVec.lt_def, u16be_toNat, ← BitVec.toNat_inj] at h ⊢
  omega

theorem u24be_lt_of_lex {b d : Span 3}
    (h : b[0] < d[0] ∨ b[0] = d[0] ∧ (b[1] < d[1] ∨ b[1] = d[1] ∧ b[2] < d[2])) : u24be b < u24be d := by
  have hb1 := b[1].isLt
  have hb2 := b[2].isLt
  simp only [BitVec.lt_def, u24be_toNat, ← BitVec.toNat_inj] at h ⊢
  omega

/-- A shift by eight and an or are a concatenation, so the composition is a number in base 256. -/
theorem u24be_eq_u16be (b0 b1 b2 : Byte) :
    u24be #v[b0, b1, b2] = ((u16be #v[b0, b1]).setWidth 24 <<< 8) ||| b2.setWidth 24 := by
  rw [← BitVec.setWidth_append_eq_shiftLeft_setWidth_or, BitVec.setWidth_eq]
  refine BitVec.eq_of_toNat_eq ((u24be_toNat _).trans ?_)
  rw [toNat_append_eq_add, u16be_toNat]
  simp only [Vector.getElem_mk, List.getElem_toArray, List.getElem_cons_zero, List.getElem_cons_succ]
  omega

/-! ## Packing and extracting the nine stored fields -/

/-- Bytes 18 to 33 of an encoded payload are the digest, in order (R129). -/
theorem siPack_digest (r : SiRaw) (i : Fin 16) : (siPack r)[18 + i.val] = r.md5[i] := by
  fin_cases i <;> rfl

theorem siPack_byte12_toNat (r : SiRaw) :
    (siPack r)[12].toNat = 16 * (r.rate.toNat % 16) + 2 * r.chan.toNat + r.bps.toNat / 16 := by
  have hbps := r.bps.isLt
  simp only [siPack_byte12, toNat_append_eq_add, BitVec.extractLsb'_toNat, Nat.shiftRight_eq_div_pow]
  omega

theorem siPack_byte13_toNat (r : SiRaw) :
    (siPack r)[13].toNat = 16 * (r.bps.toNat % 16) + r.total.toNat / 2 ^ 32 := by
  have htotal := r.total.isLt
  simp only [siPack_byte13, toNat_append_eq_add, BitVec.extractLsb'_toNat, Nat.shiftRight_eq_div_pow]
  omega

theorem siRate_siPack (r : SiRaw) : siRate (siPack r) = r.rate := by
  have hrate := r.rate.isLt
  have hchan := r.chan.isLt
  have hbps := r.bps.isLt
  refine BitVec.eq_of_toNat_eq ?_
  simp only [siRate_toNat, siPack_byte10, siPack_byte11, siPack_byte12_toNat, BitVec.extractLsb'_toNat,
    Nat.shiftRight_eq_div_pow]
  omega

theorem siChanRaw_siPack (r : SiRaw) : siChanRaw (siPack r) = r.chan := by
  have hchan := r.chan.isLt
  have hbps := r.bps.isLt
  refine BitVec.eq_of_toNat_eq ?_
  rw [siChanRaw_toNat, siPack_byte12_toNat]
  omega

theorem siBpsRaw_siPack (r : SiRaw) : siBpsRaw (siPack r) = r.bps := by
  have hbps := r.bps.isLt
  have htotal := r.total.isLt
  refine BitVec.eq_of_toNat_eq ?_
  rw [siBpsRaw_toNat, siPack_byte12_toNat, siPack_byte13_toNat]
  omega

theorem siTotal_siPack (r : SiRaw) : siTotal (siPack r) = r.total := by
  have htotal := r.total.isLt
  refine BitVec.eq_of_toNat_eq ?_
  simp only [siTotal_toNat, siPack_byte13_toNat, siPack_byte14, siPack_byte15, siPack_byte16, siPack_byte17,
    BitVec.extractLsb'_toNat, Nat.shiftRight_eq_div_pow]
  omega

theorem siMd5_siPack (r : SiRaw) : siMd5 (siPack r) = r.md5 :=
  Vector.ext fun i hi => (siMd5_getElem (siPack r) ⟨i, hi⟩).trans (siPack_digest r ⟨i, hi⟩)

theorem siExtract_siPack (r : SiRaw) : siExtract (siPack r) = r := by
  have hminblk : u16be #v[(siPack r)[0], (siPack r)[1]] = r.minblk := u16be_extractLsb' r.minblk
  have hmaxblk : u16be #v[(siPack r)[2], (siPack r)[3]] = r.maxblk := u16be_extractLsb' r.maxblk
  have hminfrm : u24be #v[(siPack r)[4], (siPack r)[5], (siPack r)[6]] = r.minfrm := u24be_extractLsb' r.minfrm
  have hmaxfrm : u24be #v[(siPack r)[7], (siPack r)[8], (siPack r)[9]] = r.maxfrm := u24be_extractLsb' r.maxfrm
  rw [siExtract, hminblk, hmaxblk, hminfrm, hmaxfrm, siRate_siPack, siChanRaw_siPack, siBpsRaw_siPack, siTotal_siPack,
    siMd5_siPack]

/-- Bytes 10 to 13 hold the rate, the channels and the depth, with the highest four bits of the total (R125 to R128). -/
theorem siPack_siExtract_bytes_10_to_13 (p : Span 34) :
    (siPack (siExtract p))[10] = p[10] ∧ (siPack (siExtract p))[11] = p[11] ∧
      (siPack (siExtract p))[12] = p[12] ∧ (siPack (siExtract p))[13] = p[13] := by
  have h10 := p[10].isLt
  have h11 := p[11].isLt
  have h12 := p[12].isLt
  have h13 := p[13].isLt
  have h14 := p[14].isLt
  have h15 := p[15].isLt
  have h16 := p[16].isLt
  have h17 := p[17].isLt
  refine ⟨?_, ?_, ?_, ?_⟩
  all_goals
    refine BitVec.eq_of_toNat_eq ?_
    simp only [siPack_byte10, siPack_byte11, siPack_byte12_toNat, siPack_byte13_toNat, siExtract, siRate_toNat,
      siChanRaw_toNat, siBpsRaw_toNat, siTotal_toNat, BitVec.extractLsb'_toNat, Nat.shiftRight_eq_div_pow]
    omega

/-- Bytes 14 to 17 hold the lower 32 bits of the total (R128). -/
theorem siPack_siExtract_bytes_14_to_17 (p : Span 34) :
    (siPack (siExtract p))[14] = p[14] ∧ (siPack (siExtract p))[15] = p[15] ∧
      (siPack (siExtract p))[16] = p[16] ∧ (siPack (siExtract p))[17] = p[17] := by
  have h14 := p[14].isLt
  have h15 := p[15].isLt
  have h16 := p[16].isLt
  have h17 := p[17].isLt
  refine ⟨?_, ?_, ?_, ?_⟩
  all_goals
    refine BitVec.eq_of_toNat_eq ?_
    simp only [siPack_byte14, siPack_byte15, siPack_byte16, siPack_byte17, siExtract, siTotal_toNat,
      BitVec.extractLsb'_toNat, Nat.shiftRight_eq_div_pow]
    omega

theorem siPack_siExtract (p : Span 34) : siPack (siExtract p) = p := by
  obtain ⟨hbyte0, hbyte1⟩ := u16be_bytes #v[p[0], p[1]]
  obtain ⟨hbyte2, hbyte3⟩ := u16be_bytes #v[p[2], p[3]]
  obtain ⟨hbyte4, hbyte5, hbyte6⟩ := u24be_bytes #v[p[4], p[5], p[6]]
  obtain ⟨hbyte7, hbyte8, hbyte9⟩ := u24be_bytes #v[p[7], p[8], p[9]]
  obtain ⟨hbyte10, hbyte11, hbyte12, hbyte13⟩ := siPack_siExtract_bytes_10_to_13 p
  obtain ⟨hbyte14, hbyte15, hbyte16, hbyte17⟩ := siPack_siExtract_bytes_14_to_17 p
  have hdigest : ∀ j, ∀ hj : j < 16, (siPack (siExtract p))[18 + j] = p[18 + j] := fun j hj =>
    (siPack_digest (siExtract p) ⟨j, hj⟩).trans (siMd5_getElem p ⟨j, hj⟩)
  refine Vector.ext fun i hi => ?_
  match i, hi with
  | 0, _ => exact hbyte0
  | 1, _ => exact hbyte1
  | 2, _ => exact hbyte2
  | 3, _ => exact hbyte3
  | 4, _ => exact hbyte4
  | 5, _ => exact hbyte5
  | 6, _ => exact hbyte6
  | 7, _ => exact hbyte7
  | 8, _ => exact hbyte8
  | 9, _ => exact hbyte9
  | 10, _ => exact hbyte10
  | 11, _ => exact hbyte11
  | 12, _ => exact hbyte12
  | 13, _ => exact hbyte13
  | 14, _ => exact hbyte14
  | 15, _ => exact hbyte15
  | 16, _ => exact hbyte16
  | 17, _ => exact hbyte17
  | j + 18, hj => simpa only [Nat.add_comm] using hdigest j (by omega)

/-! ## The offset law and its inverse -/

theorem siStore_siAssemble (r : SiRaw) : siStore (siAssemble r) = r := by
  have hchan : ∀ v : BitVec 3, (channelsOfRaw v - 1#4).setWidth 3 = v := by decide
  have hbps : ∀ v : BitVec 5, (bpsOfRaw v - 1#6).setWidth 5 = v := by decide
  simp only [siStore, siAssemble, hchan, hbps]

theorem channelsOfRaw_sub_one {c : BitVec 4} (hlo : 1 ≤ c.toNat) (hhi : c.toNat ≤ 8) :
    channelsOfRaw ((c - 1#4).setWidth 3) = c := by
  refine BitVec.eq_of_toNat_eq ?_
  rw [channelsOfRaw_toNat, BitVec.toNat_setWidth, BitVec.toNat_sub, BitVec.toNat_ofNat]
  omega

theorem bpsOfRaw_sub_one {d : BitVec 6} (hlo : 1 ≤ d.toNat) (hhi : d.toNat ≤ 32) :
    bpsOfRaw ((d - 1#6).setWidth 5) = d := by
  refine BitVec.eq_of_toNat_eq ?_
  rw [bpsOfRaw_toNat, BitVec.toNat_setWidth, BitVec.toNat_sub, BitVec.toNat_ofNat]
  omega

/-! ## The obligations -/

/-- Settles O3, by the values of the unpackers as numbers in base 256. -/
theorem unpackersAreMonotoneBijections : Obligations.UnpackersAreMonotoneBijections := by
  refine ⟨fun b => ?_, u16be_extractLsb', fun b => ?_, u24be_extractLsb', fun _ _ => u16be_lt_of_lex,
    fun _ _ => u24be_lt_of_lex, u24be_eq_u16be⟩
  · obtain ⟨h0, h1⟩ := u16be_bytes b
    exact Span.ext2 b h0 h1
  · obtain ⟨h0, h1, h2⟩ := u24be_bytes b
    exact Span.ext3 b h0 h1 h2

/-- Settles O15: the packing inverts the extraction, and storing inverts the offset law on its range. -/
theorem streamInfoCodecIsBijective : Obligations.StreamInfoCodecIsBijective := by
  refine ⟨fun p => ?_, fun x hchan1 hchan8 hbps1 hbps32 => ?_⟩
  · rw [siEncode, siDecode, siStore_siAssemble, siPack_siExtract]
  · rw [siDecode, siEncode, siExtract_siPack]
    simp only [siAssemble, siStore, channelsOfRaw_sub_one hchan1 hchan8, bpsOfRaw_sub_one hbps1 hbps32]

/-- The top 20 bits of bytes 10 to 12 are made of two bytes and a nibble. -/
theorem siRate_congr {p q : Span 34} (h10 : p[10] = q[10]) (h11 : p[11] = q[11])
    (h12 : p[12].extractLsb' 4 4 = q[12].extractLsb' 4 4) : siRate p = siRate q := by
  have hp := p[12].isLt
  have hq := q[12].isLt
  have hnibble := congrArg BitVec.toNat h12
  simp only [BitVec.extractLsb'_toNat, Nat.shiftRight_eq_div_pow] at hnibble
  refine BitVec.eq_of_toNat_eq ?_
  rw [siRate_toNat, siRate_toNat, h10, h11]
  omega

theorem siBpsRaw_congr {p q : Span 34} (h12 : p[12].getLsbD 0 = q[12].getLsbD 0)
    (h13 : p[13].extractLsb' 4 4 = q[13].extractLsb' 4 4) : siBpsRaw p = siBpsRaw q := by
  have hbit : p[12].extractLsb' 0 1 = q[12].extractLsb' 0 1 := by
    refine BitVec.eq_of_getLsbD_eq fun i hi => ?_
    obtain rfl : i = 0 := by omega
    simpa using h12
  rw [siBpsRaw, siBpsRaw, hbit, h13]

/-- Settles O16: each unit names the bytes and bits it takes. -/
theorem streamInfoFieldDependencies : Obligations.StreamInfoFieldDependencies := by
  intro p q
  refine ⟨fun h0 h1 => ?minblk, fun h2 h3 => ?maxblk, fun h4 h5 h6 => ?minfrm, fun h7 h8 h9 => ?maxfrm, siRate_congr,
    fun h12 => ?channels, fun h12 h13 => ?bps, fun h13 h14 h15 h16 h17 => ?total, fun i hi => ?md5⟩
  case minblk => simp only [siDecode, siAssemble, siExtract, h0, h1]
  case maxblk => simp only [siDecode, siAssemble, siExtract, h2, h3]
  case minfrm => simp only [siDecode, siAssemble, siExtract, h4, h5, h6]
  case maxfrm => simp only [siDecode, siAssemble, siExtract, h7, h8, h9]
  case channels => exact congrArg channelsOfRaw h12
  case bps => exact congrArg bpsOfRaw (siBpsRaw_congr h12 h13)
  case total => simp only [siDecode, siAssemble, siExtract, siTotal, h13, h14, h15, h16, h17]
  case md5 => exact (siMd5_getElem p i).trans (hi.trans (siMd5_getElem q i).symm)

end Sys2Proof.Machine

/-! 41_header_decoder.md section 3 and 30_encoding.md: the header codec under both layouts, the header of an instruction as its
encoding and as what selects it, and the obligations about the header codec, about the layouts (R101) and about decoding and
encoding. -/

namespace Sys2Proof.Machine

/-! ## A bit of a concatenation -/

theorem getLsbD_append_add {m n : Nat} (x : BitVec m) (y : BitVec n) (i : Nat) :
    (x ++ y).getLsbD (n + i) = x.getLsbD i := by
  rw [BitVec.getLsbD_append, if_neg (by omega), Nat.add_sub_cancel_left]

/-- The lowest bit is that of the flag on the right. -/
theorem getLsbD_append_ofBool {m : Nat} (x : BitVec m) (b : Bool) : (x ++ BitVec.ofBool b).getLsbD 0 = b := by
  rw [BitVec.getLsbD_append]
  simp

/-! ## The header codec -/

theorem lastFlag_hdrEncode (layout : HdrLayout) (last : Bool) (tcode : BitVec 7) (len : BitVec 24) :
    lastFlag layout (hdrEncode layout last tcode len)[0] = last := by
  cases layout with
  | docLsbFlag => exact getLsbD_append_ofBool tcode last
  | flacMsbFlag => exact (getLsbD_append_add (BitVec.ofBool last) tcode 0).trans (by simp)

theorem typeCode_hdrEncode (layout : HdrLayout) (last : Bool) (tcode : BitVec 7) (len : BitVec 24) :
    typeCode layout (hdrEncode layout last tcode len)[0] = tcode := by
  cases layout with
  | docLsbFlag => exact BitVec.extractLsb'_append_eq_left (b := BitVec.ofBool last)
  | flacMsbFlag => exact BitVec.extractLsb'_append_eq_right (a := BitVec.ofBool last)

theorem hdrDecode_hdrEncode (layout : HdrLayout) (last : Bool) (tcode : BitVec 7) (len : BitVec 24) :
    hdrDecode layout (hdrEncode layout last tcode len) =
      { last := last, tcode := tcode, tclass := typeClassify tcode, len := len } := by
  rw [hdrDecode, lastFlag_hdrEncode, typeCode_hdrEncode]
  exact congrArg (BlockHeader.mk last tcode (typeClassify tcode)) (u24be_extractLsb' len)

/-- R101's corner case: flag and code make up byte 0 as `2 c + f` and as `128 f + c`, which is `255 f` where they agree. -/
theorem byte0_uniform {b : Byte} (hlast : lastFlag .docLsbFlag b = lastFlag .flacMsbFlag b)
    (hcode : typeCode .docLsbFlag b = typeCode .flacMsbFlag b) : b = 0x00#8 ∨ b = 0xFF#8 := by
  have hdoc := toNat_eq_docLsbFlag b
  have hflac := toNat_eq_flacMsbFlag b
  rw [hlast, hcode] at hdoc
  simp only [← BitVec.toNat_inj, BitVec.toNat_ofNat]
  cases hflag : lastFlag .flacMsbFlag b <;> simp only [hflag, Bool.toNat_false, Bool.toNat_true] at hdoc hflac <;> omega

/-! ## An instruction and its header -/

/-- An instruction is a block's, with a header, or the marker, or the payload. -/
theorem header_or_marker_or_payload (i : Instr) :
    (∃ hdr, i.header = some hdr) ∨ (∃ m, i = .magic m) ∨ ∃ raw, i = .siPayload raw := by
  cases i with
  | magic m => exact .inr (.inl ⟨m, rfl⟩)
  | siPayload raw => exact .inr (.inr ⟨raw, rfl⟩)
  | streaminfo | streaminfoBadlen | padding | application | seektable | vorbisComment | cuesheet | picture | reserved
  | invalid => exact .inl ⟨_, rfl⟩

section
variable {i : Instr} {hdr : BlockHeader} (hi : i.header = some hdr)
include hi

theorem format_of_header : i.format = .hdr32 := by
  cases i with
  | magic | siPayload => cases hi
  | streaminfo | streaminfoBadlen | padding | application | seektable | vorbisComment | cuesheet | picture | reserved
  | invalid => rfl

theorem encode_of_header (layout : HdrLayout) :
    encode layout i = (hdrEncode layout hdr.last hdr.tcode hdr.len).toList := by
  cases i with
  | magic | siPayload => cases hi
  | streaminfo | streaminfoBadlen | padding | application | seektable | vorbisComment | cuesheet | picture | reserved
  | invalid => cases hi; rfl

/-- Well-formed says of a block's instruction that its header is a decoded one and selects it (R66, R69, R75). -/
theorem wellFormed_iff_of_header :
    i.wellFormed = true ↔ hdr.tclass = typeClassify hdr.tcode ∧ instrOfHeader hdr = i := by
  cases i with
  | magic | siPayload => cases hi
  | streaminfo | padding | application | seektable | vorbisComment | cuesheet | picture | invalid =>
    cases hi
    exact ⟨fun _ => ⟨rfl, rfl⟩, fun _ => rfl⟩
  | streaminfoBadlen last len =>
    cases hi
    by_cases hlen : len = 34#24 <;> simp [Instr.wellFormed, instrOfHeader, typeClassify, hlen]
  | reserved last tcode len =>
    cases hi
    simp only [Instr.wellFormed, Bool.and_eq_true, decide_eq_true_eq]
    refine ⟨fun ⟨hlo, hhi⟩ => ⟨(typeClassify_of_reserved hlo hhi).symm, rfl⟩, fun ⟨hclass, _⟩ => ?_⟩
    rcases typeClassify_cases tcode with ⟨-, hc⟩ | ⟨-, hc⟩ | ⟨-, hc⟩ | ⟨-, hc⟩ | ⟨-, hc⟩ | ⟨-, hc⟩ | ⟨-, hc⟩ | ⟨-, hc⟩ |
      ⟨hlo, hhi, -⟩
    iterate 8 · cases hclass.trans hc
    · exact ⟨hlo, hhi⟩

theorem decodeHeader_hdrEncode (hwf : i.wellFormed = true) (layout : HdrLayout) :
    decodeHeader layout (hdrEncode layout hdr.last hdr.tcode hdr.len) = i := by
  obtain ⟨hclass, hsel⟩ := (wellFormed_iff_of_header hi).mp hwf
  rw [decodeHeader, hdrDecode_hdrEncode, ← hclass]
  exact hsel

end

theorem decodeHeader_wellFormed (layout : HdrLayout) (h : Span 4) : (decodeHeader layout h).wellFormed = true :=
  (wellFormed_iff_of_header (decodeHeader_header layout h)).mpr ⟨rfl, rfl⟩

theorem encode_decodeHeader (layout : HdrLayout) (h : Span 4) : encode layout (decodeHeader layout h) = h.toList := by
  rw [encode_of_header (decodeHeader_header layout h), hdrEncode_hdrDecode]

/-! ## The decoder by its format and the length of the list -/

theorem Span.exists_ofList {n : Nat} {bs : List Byte} (h : bs.length = n) : ∃ p : Span n, p.toList = bs := by
  cases hp : Span.ofList n bs with
  | none => exact absurd h (Span.ofList_none_iff.mp hp)
  | some p => exact ⟨p, Span.ofList_some hp⟩

theorem decode_marker32 (layout : HdrLayout) (m : Span 4) : decode layout .marker32 m.toList = .ok (.magic m) := by
  simp only [decode, Span.ofList_toList, decodeMarker]

theorem decode_hdr32 (layout : HdrLayout) (h : Span 4) :
    decode layout .hdr32 h.toList = .ok (decodeHeader layout h) := by
  simp only [decode, Span.ofList_toList]

theorem decode_si272 (layout : HdrLayout) (p : Span 34) :
    decode layout .si272 p.toList = .ok (.siPayload (siExtract p)) := by
  simp only [decode, Span.ofList_toList, decodePayload]

/-- R93, R104, R131 for all three formats. -/
theorem decode_wrongLength (layout : HdrLayout) {f : Format} {bs : List Byte} (h : bs.length ≠ f.size) :
    decode layout f bs = .error (.wrongLength f bs.length) := by
  cases f with
  | marker32 | hdr32 | si272 =>
    have hnone := Span.ofList_none_iff.mpr h
    simp only [Format.size] at hnone
    simp only [decode, hnone]

/-- Only a list of the format's length is decoded. -/
theorem length_of_decode {layout : HdrLayout} {f : Format} {bs : List Byte} {i : Instr}
    (h : decode layout f bs = .ok i) : bs.length = f.size := by
  by_contra hlen
  rw [decode_wrongLength layout hlen] at h
  cases h

/-! ## The obligations about the codecs -/

/-- Settles O7: the length does not depend on the layout, the class only on the code. -/
theorem layoutsAgreeOnlyOnUniformBytes : Obligations.LayoutsAgreeOnlyOnUniformBytes := by
  intro h
  constructor
  · intro heq
    exact byte0_uniform (congrArg BlockHeader.last heq) (congrArg BlockHeader.tcode heq)
  · rintro (h0 | h0) <;> rw [hdrDecode, hdrDecode, h0] <;> rfl

/-- Settles O8: the two round trips, and the word of a decoded header. -/
theorem headerCodecIsBijective : Obligations.HeaderCodecIsBijective := fun layout =>
  ⟨hdrDecode_hdrEncode layout, hdrEncode_hdrDecode layout, hdrWord_hdrDecode layout⟩

/-- Settles O9: a block's instruction by its header, the marker and the payload by their own codecs. -/
theorem decodeOfEncodeIsIdentity : Obligations.DecodeOfEncodeIsIdentity := by
  intro layout i hwf
  rcases header_or_marker_or_payload i with ⟨hdr, hi⟩ | ⟨m, rfl⟩ | ⟨raw, rfl⟩
  · rw [format_of_header hi, encode_of_header hi, decode_hdr32, decodeHeader_hdrEncode hi hwf]
  · exact decode_marker32 layout m
  · exact (decode_si272 layout (siPack raw)).trans (by rw [siExtract_siPack])

/-- Settles O10: the list is a span of the format's length, and the format's own codec gives it back. -/
theorem encodeOfDecodeIsIdentity : Obligations.EncodeOfDecodeIsIdentity := by
  intro layout f bs i hdec
  obtain ⟨p, rfl⟩ := Span.exists_ofList (length_of_decode hdec)
  cases f with
  | marker32 =>
    cases (decode_marker32 layout p).symm.trans hdec
    exact ⟨rfl, rfl, rfl⟩
  | hdr32 =>
    cases (decode_hdr32 layout p).symm.trans hdec
    exact ⟨decodeHeader_wellFormed layout p, format_of_header (decodeHeader_header layout p), encode_decodeHeader layout p⟩
  | si272 =>
    cases (decode_si272 layout p).symm.trans hdec
    exact ⟨rfl, rfl, congrArg Vector.toList (siPack_siExtract p)⟩

/-- Settles O11: a list of the format's length is a span of it; its instruction's format is that of the round trip. -/
theorem decodingIsTotal : Obligations.DecodingIsTotal := by
  intro layout f bs
  refine ⟨fun hlen => ?_, decode_wrongLength layout⟩
  obtain ⟨p, rfl⟩ := Span.exists_ofList hlen
  have hok : ∃ i, decode layout f p.toList = .ok i := by
    cases f with
    | marker32 => exact ⟨_, decode_marker32 layout p⟩
    | hdr32 => exact ⟨_, decode_hdr32 layout p⟩
    | si272 => exact ⟨_, decode_si272 layout p⟩
  obtain ⟨i, hdec⟩ := hok
  obtain ⟨-, hformat, -⟩ := encodeOfDecodeIsIdentity layout f p.toList i hdec
  exact ⟨i, hdec, hformat⟩

/-- Settles O13: seven closed words, on which the decoder is run. -/
theorem writtenWordsDecode : Obligations.WrittenWordsDecode := by
  unfold Obligations.WrittenWordsDecode
  decide

end Sys2Proof.Machine

/-! 30_encoding.md sections 3 and 6: a row of the opcode map as a test of byte 0 and, in the row of `BLK.STREAMINFO`, of the
length; and the obligation that the first row a word matches names the instruction the decoder selects (R68, R69, R75). -/

namespace Sys2Proof.Machine

/-! ## A row as a test of byte 0 and of the length -/

theorem append_and_eq_append_iff {m n : Nat} (b x p : BitVec m) (l y q : BitVec n) :
    (b ++ l) &&& (x ++ y) = p ++ q ↔ b &&& x = p ∧ l &&& y = q := by
  rw [BitVec.and_append]
  refine ⟨fun h => ⟨?_, ?_⟩, fun ⟨hb, hl⟩ => by rw [hb, hl]⟩
  · simpa only [BitVec.extractLsb'_append_eq_left] using congrArg (BitVec.extractLsb' n m) h
  · simpa only [BitVec.extractLsb'_append_eq_right] using congrArg (BitVec.extractLsb' 0 n) h

/-- `W` is byte 0 above the length (R62). -/
theorem be32_eq_append (h : Span 4) : be32 h = (h[0] ++ u24be #v[h[1], h[2], h[3]] : BitVec 32) := by
  refine BitVec.eq_of_toNat_eq ?_
  rw [toNat_append_eq_add, be32_toNat, u24be_toNat]
  simp only [Vector.getElem_mk, List.getElem_toArray, List.getElem_cons_zero, List.getElem_cons_succ]
  omega

/-- Whether a row matches a word with this byte 0, whose length is 34 or is not. -/
def rowMatches (row : OpcodeRow) (h0 : Byte) (len34 : Bool) : Bool :=
  h0 &&& row.mask.extractLsb' 24 8 == row.pattern.extractLsb' 24 8 && (row.mask.extractLsb' 0 24 == 0#24 || len34)

/-- A row either leaves the length open or asks for 34 in all 24 bits. -/
theorem headerRows_low (layout : HdrLayout) : ∀ row ∈ headerRows layout,
    row.mask.extractLsb' 0 24 = 0#24 ∧ row.pattern.extractLsb' 0 24 = 0#24 ∨
      row.mask.extractLsb' 0 24 = 0xFFFFFF#24 ∧ row.pattern.extractLsb' 0 24 = 34#24 := by
  cases layout <;> decide

theorem rowMatches_eq {layout : HdrLayout} {row : OpcodeRow} (hrow : row ∈ headerRows layout) (h0 : Byte)
    (len : BitVec 24) :
    ((h0 ++ len : BitVec 32) &&& row.mask == row.pattern) = rowMatches row h0 (len == 34#24) := by
  have hsplit : ∀ w : BitVec 32, w = (w.extractLsb' 24 8 ++ w.extractLsb' 0 24 : BitVec 32) := fun w => by
    rw [BitVec.extractLsb'_append_extractLsb'_eq_extractLsb' (by rfl)]
    exact BitVec.extractLsb'_eq_self.symm
  have hiff : (h0 ++ len : BitVec 32) &&& row.mask = row.pattern ↔
      h0 &&& row.mask.extractLsb' 24 8 = row.pattern.extractLsb' 24 8 ∧
        len &&& row.mask.extractLsb' 0 24 = row.pattern.extractLsb' 0 24 := by
    rw [← append_and_eq_append_iff, ← hsplit, ← hsplit]
  have hones : len &&& 0xFFFFFF#24 = len := BitVec.and_allOnes
  rw [Bool.eq_iff_iff, rowMatches, beq_iff_eq, hiff]
  rcases headerRows_low layout row hrow with ⟨hmask, hpattern⟩ | ⟨hmask, hpattern⟩
  · simp [hmask, hpattern]
  · simp [hmask, hpattern, hones]

/-- The first row a word matches, found by byte 0 and by whether the length is 34. -/
theorem rowOf_be32 (layout : HdrLayout) (h : Span 4) :
    rowOf layout (be32 h) =
      (headerRows layout).find? fun row => rowMatches row h[0] ((hdrDecode layout h).len == 34#24) := by
  rw [rowOf, be32_eq_append]
  exact List.find?_congr fun row hrow => rowMatches_eq hrow _ _

/-! ## The decoder's instruction by byte 0 and the length -/

/-- R75: the class and whether the length is 34 select the arm; the last flag takes no part. -/
theorem instrOfHeader_mnemonic_congr {h k : BlockHeader} (hclass : h.tclass = k.tclass)
    (hlen : h.len = 34#24 ↔ k.len = 34#24) : (instrOfHeader h).mnemonic = (instrOfHeader k).mnemonic := by
  rw [instrOfHeader, instrOfHeader, hclass]
  cases k.tclass with
  | streamInfo => by_cases hk : k.len = 34#24 <;> simp [hlen, hk, Instr.mnemonic]
  | padding | application | seekTable | vorbisComment | cuesheet | picture | reserved | invalid => rfl

/-- A header with this type code, whose length is 34 or is not. -/
def sampleHeader (tcode : BitVec 7) (len34 : Bool) : BlockHeader :=
  { last := false, tcode := tcode, tclass := typeClassify tcode, len := if len34 then 34#24 else 0#24 }

theorem decodeHeader_mnemonic (layout : HdrLayout) (h : Span 4) :
    (decodeHeader layout h).mnemonic =
      (instrOfHeader (sampleHeader (typeCode layout h[0]) ((hdrDecode layout h).len == 34#24))).mnemonic := by
  refine instrOfHeader_mnemonic_congr rfl ?_
  by_cases hlen : (hdrDecode layout h).len = 34#24 <;> simp [sampleHeader, hlen]

/-- The map and the decoder agree on all 256 values of byte 0. -/
theorem first_row_mnemonic (layout : HdrLayout) (len34 : Bool) : ∀ h0 : Byte,
    ((headerRows layout).find? fun row => rowMatches row h0 len34).map OpcodeRow.mnemonic =
      some (instrOfHeader (sampleHeader (typeCode layout h0) len34)).mnemonic := by
  cases layout <;> cases len34 <;> decide

/-! ## Rows that match one word together -/

/-- Two rows that match one word ask for the same bits where both ask. -/
theorem patterns_agree {w maskA patternA maskB patternB : BitVec 32} (ha : w &&& maskA = patternA)
    (hb : w &&& maskB = patternB) : patternA &&& maskB = patternB &&& maskA := by
  rw [← ha, ← hb, BitVec.and_assoc, BitVec.and_assoc, BitVec.and_comm maskA]

theorem headerRows_pairwise (layout : HdrLayout) : (headerRows layout).Pairwise fun a b =>
    a.pattern &&& b.mask = b.pattern &&& a.mask →
      a.mnemonic = "BLK.STREAMINFO" ∧ b.mnemonic = "BLK.STREAMINFO.BADLEN" := by
  cases layout <;> decide

/-! ## The obligation -/

/-- Settles O12: the first matching row is found by byte 0 and by whether the length is 34, and so is the decoder's arm; two
rows can match together only where their patterns agree. -/
theorem opcodeMapAgreesWithDecoder : Obligations.OpcodeMapAgreesWithDecoder := by
  intro layout
  refine ⟨fun h => ?_, ?_⟩
  · have hfirst := first_row_mnemonic layout ((hdrDecode layout h).len == 34#24) h[0]
    rw [← rowOf_be32, ← decodeHeader_mnemonic] at hfirst
    exact Option.map_eq_some_iff.mp hfirst
  · exact (headerRows_pairwise layout).imp fun hrows w ha hb => hrows (patterns_agree ha hb)

end Sys2Proof.Machine

/-! 43_chain_sequencer.md sections 1 and 2: that every instruction answers, what it leaves unchanged and what it reads of the
stream (R74), the units' applications as steps (42 section 3), and the obligations about one instruction or one application. -/

namespace Sys2Proof.Machine

/-! ## Every instruction answers -/

/-- The machine goes on to a state whose result port holds an answer. -/
def Answers (result : Result) : Prop := ∃ t, result = .next t ∧ ∃ r, t.resp = some r

theorem opaqueBlock_answers (hdr : BlockHeader) (warn : Bool) (s : State) : Answers (opaqueBlock hdr warn s) := by
  by_cases hread : hdr.len.toNat = 0 ∨ s.pos + hdr.len.toNat ≤ s.mem.size
  · exact ⟨_, opaqueBlock_ok hread, _, rfl⟩
  · exact ⟨_, opaqueBlock_fail (by omega) (by omega), _, rfl⟩

theorem unsupportedBlock_answers (hdr : BlockHeader) (s : State) : Answers (unsupportedBlock hdr s) := by
  cases hp : s.cfg.policy with
  | abort => exact ⟨_, unsupportedBlock_abort hp, _, rfl⟩
  | skip =>
    rw [unsupportedBlock_skip hp]
    exact opaqueBlock_answers hdr true s

theorem execStreaminfo_answers (last : Bool) (s : State) : Answers (execStreaminfo last s) := by
  by_cases hread : s.pos + 34 ≤ s.mem.size
  · exact ⟨_, execStreaminfo_of_bytesAt last (bytesAt_span (.inr hread)), _, rfl⟩
  · exact ⟨_, execStreaminfo_truncated last (by omega), _, rfl⟩

theorem execMagic_answers (marker : Span 4) (s : State) : Answers (execMagic marker s) := by
  by_cases hm : marker = s.cfg.magic
  · exact ⟨_, if_pos hm, _, rfl⟩
  · exact ⟨_, if_neg hm, _, rfl⟩

theorem exec_answers (i : Instr) (s : State) : Answers (exec i s) := by
  cases i with
  | streaminfo last => exact execStreaminfo_answers last s
  | streaminfoBadlen | siPayload => exact ⟨_, rfl, _, rfl⟩
  | padding | application | seektable | vorbisComment | cuesheet | picture => exact opaqueBlock_answers _ _ s
  | reserved | invalid => exact unsupportedBlock_answers _ s
  | magic marker => exact execMagic_answers marker s

theorem commandStart_answers (s : State) : Answers (commandStart s) := by
  rcases commandStart_cases s with ⟨-, he⟩ | ⟨-, -, he⟩ | ⟨-, -, he⟩ <;> rw [he]
  iterate 2 · exact ⟨_, rfl, _, rfl⟩
  · exact exec_answers _ _

theorem commandStep_answers (s : State) : Answers (commandStep s) := by
  rcases commandStep_cases s with ⟨-, he⟩ | ⟨-, he⟩ | ⟨-, -, he⟩ | ⟨-, -, he⟩ <;> rw [he]
  iterate 3 · exact ⟨_, rfl, _, rfl⟩
  · exact exec_answers _ _

/-! ## What an instruction reads of the stream (R74) -/

theorem opaqueBlock_with_mem {hdr : BlockHeader} {warn : Bool} {s t : State} {m : Memory} (hm : m.size = s.mem.size)
    (h : opaqueBlock hdr warn s = .next t) : opaqueBlock hdr warn { s with mem := m } = .next { t with mem := m } := by
  rcases opaqueBlock_cases h with ⟨hread, rfl⟩ | ⟨h0, hlt, rfl⟩
  · exact opaqueBlock_ok (s := { s with mem := m }) (by simpa only [hm] using hread)
  · exact opaqueBlock_fail (s := { s with mem := m }) h0 (by simpa only [hm] using hlt)

theorem unsupportedBlock_with_mem {hdr : BlockHeader} {s t : State} {m : Memory} (hm : m.size = s.mem.size)
    (h : unsupportedBlock hdr s = .next t) : unsupportedBlock hdr { s with mem := m } = .next { t with mem := m } := by
  cases hp : s.cfg.policy with
  | abort =>
    cases (unsupportedBlock_abort hp).symm.trans h
    exact unsupportedBlock_abort (s := { s with mem := m }) hp
  | skip =>
    rw [unsupportedBlock_skip hp] at h
    exact (unsupportedBlock_skip (s := { s with mem := m }) hp).trans (opaqueBlock_with_mem hm h)

theorem execMagic_with_mem {marker : Span 4} {s t : State} (m : Memory) (h : execMagic marker s = .next t) :
    execMagic marker { s with mem := m } = .next { t with mem := m } := by
  by_cases hm : marker = s.cfg.magic
  · cases (if_pos hm).symm.trans h
    exact if_pos hm
  · cases (if_neg hm).symm.trans h
    exact if_neg hm

/-! ## The applications of `SI.DECODE` -/

theorem applyUnit_siDecode_toList (p : Span 34) (s : State) :
    applyUnit (.siDecode p.toList) s = .next (s.respond (.unit (.streamInfo (siDecode p)))) := by
  simp only [applyUnit, decode_si272]
  rfl

theorem applyUnit_siDecode_of_length_ne {span : List Byte} (h : span.length ≠ 34) (s : State) :
    applyUnit (.siDecode span) s = .next (s.respond (.unit (.failed .payloadLengthMismatch))) := by
  simp only [applyUnit, decode_wrongLength s.cfg.layout (f := .si272) h]

/-- R93, R104, R173: what is refused is a span of the wrong length for one of the three units that take a fixed one. -/
theorem applyUnit_refused {call : UnitCall} {s : State} {why : Refusal} (h : applyUnit call s = .refused why) :
    why = .preconditionViolation ∧ ∃ span, call = .u16be span ∧ span.length ≠ 2 ∨
      call = .u24be span ∧ span.length ≠ 3 ∨ call = .hdrDecode span ∧ span.length ≠ 4 := by
  have hwhy : why = .preconditionViolation := by
    rcases applyUnit_cases call s with ⟨r, he⟩ | he
    · cases he.symm.trans h
    · cases he.symm.trans h; rfl
  refine ⟨hwhy, ?_⟩
  cases call with
  | u16be span =>
    refine ⟨span, .inl ⟨rfl, fun hlen => ?_⟩⟩
    obtain ⟨b, rfl⟩ := Span.exists_ofList hlen
    cases (applyUnit_u16be_toList b s).symm.trans h
  | u24be span =>
    refine ⟨span, .inr (.inl ⟨rfl, fun hlen => ?_⟩)⟩
    obtain ⟨b, rfl⟩ := Span.exists_ofList hlen
    cases (applyUnit_u24be_toList b s).symm.trans h
  | hdrDecode span =>
    refine ⟨span, .inr (.inr ⟨rfl, fun hlen => ?_⟩)⟩
    obtain ⟨b, rfl⟩ := Span.exists_ofList hlen
    cases (applyUnit_hdrDecode_toList b s).symm.trans h
  | typeClassify tcode => cases h
  | siDecode span =>
    by_cases hlen : span.length = 34
    · obtain ⟨p, rfl⟩ := Span.exists_ofList hlen
      cases (applyUnit_siDecode_toList p s).symm.trans h
    · cases (applyUnit_siDecode_of_length_ne hlen s).symm.trans h

/-! ## The obligations about the units -/

/-- Settles O18: the answer is the offset law applied to the stored fields. -/
theorem siPayloadAnswersNineFields : Obligations.SiPayloadAnswersNineFields := fun raw _ =>
  ⟨siAssemble raw, rfl, rfl, rfl, rfl, rfl, rfl, channelsOfRaw_toNat raw.chan, bpsOfRaw_toNat raw.bps, rfl, rfl⟩

/-- Settles O19: the step serves the application, by the length of the list. -/
theorem siUnitChecksItsLength : Obligations.SiUnitChecksItsLength := fun _ _ =>
  ⟨fun p hreqs => (step_serve hreqs).trans (applyUnit_siDecode_toList p _),
    fun _ hreqs hlen => (step_serve hreqs).trans (applyUnit_siDecode_of_length_ne hlen _)⟩

/-- Settles O20: an application that is served only answers. -/
theorem unitsWriteNoState : Obligations.UnitsWriteNoState := by
  intro s t call rest hreqs hstep
  cases served_of_serve (step_serve hreqs ▸ hstep) with
  | unit call result => exact ⟨rfl, rfl, rfl, rfl, rfl, rfl, rfl, rfl, result, rfl⟩
  | truncated hst | failed hst => simp at hst

/-- Settles O44: an idle step and every command go on, so a refusal is that of a unit's application. -/
theorem onlyWrongSpansAreRefused : Obligations.OnlyWrongSpansAreRefused := by
  intro s why hstep
  cases hreqs : s.reqs with
  | nil => cases (step_idle hreqs).symm.trans hstep
  | cons r rest =>
    have hserve := (step_serve hreqs).symm.trans hstep
    cases r with
    | reset => cases hserve
    | start =>
      obtain ⟨t, ht, -⟩ := commandStart_answers { s with reqs := rest }
      cases ht.symm.trans hserve
    | step =>
      obtain ⟨t, ht, -⟩ := commandStep_answers { s with reqs := rest }
      cases ht.symm.trans hserve
    | unit call =>
      obtain ⟨hwhy, span, hcall⟩ := applyUnit_refused hserve
      refine ⟨hwhy, span, rest, ?_⟩
      rcases hcall with ⟨rfl, hlen⟩ | ⟨rfl, hlen⟩ | ⟨rfl, hlen⟩
      · exact .inl ⟨rfl, hlen⟩
      · exact .inr (.inl ⟨rfl, hlen⟩)
      · exact .inr (.inr ⟨rfl, hlen⟩)

/-! ## The obligations about one instruction -/

/-- Settles O43, by the arm of each instruction. -/
theorem everyInstructionAnswers : Obligations.EveryInstructionAnswers := exec_answers

/-- Settles O30, by the two branches of the comparison. -/
theorem markerComparisonCompletes : Obligations.MarkerComparisonCompletes := fun _ _ =>
  ⟨fun heq => if_pos heq, fun hne => if_neg hne⟩

/-- Settles O45, by the four things an instruction can do. -/
theorem instructionFrame : Obligations.InstructionFrame := by
  intro i s t hexec
  rcases exec_cases hexec with ⟨k, info, rfl⟩ | ⟨hdr, hi, -, rfl⟩ | ⟨rfl, rfl⟩ | ⟨raw, rfl, rfl⟩
  · exact ⟨rfl, rfl, rfl, fun _ => rfl, .inl rfl, .inr ⟨k, info, rfl, rfl, rfl, rfl, rfl, rfl⟩,
      .inr (.inr ⟨k, info, rfl, rfl⟩), .inr (.inr (.inr ⟨k, info, rfl, rfl⟩))⟩
  · refine ⟨rfl, rfl, rfl, fun _ => rfl, .inr ⟨hdr, _, hi, rfl, blockRecord_hdr s hdr, rfl⟩, .inl ⟨rfl, rfl⟩,
      .inr (.inl ⟨_, rfl, rfl⟩), ?_⟩
    cases hlast : hdr.last with
    | false => exact .inl (by simp [hlast])
    | true => exact .inr (.inr (.inl ⟨_, rfl, by simp [hlast]⟩))
  · exact ⟨rfl, rfl, rfl, fun _ => rfl, .inl rfl, .inl ⟨rfl, rfl⟩, .inl rfl, .inr (.inl ⟨_, rfl, rfl, rfl⟩)⟩
  · exact ⟨rfl, rfl, rfl, fun _ => rfl, .inl rfl, .inl ⟨rfl, rfl⟩, .inl rfl, .inl rfl⟩

/-- Settles O25: an opaque block asks for the length of the stream only, the other arms not even for that. -/
theorem opaquePayloadIsNotInterpreted : Obligations.OpaquePayloadIsNotInterpreted := by
  intro i s t m hne hm hexec
  cases i with
  | streaminfo last => exact absurd rfl (hne last)
  | streaminfoBadlen | siPayload => cases hexec; rfl
  | padding | application | seektable | vorbisComment | cuesheet | picture => exact opaqueBlock_with_mem hm hexec
  | reserved | invalid => exact unsupportedBlock_with_mem hm hexec
  | magic marker => exact execMagic_with_mem m hexec

/-- Settles O31: the bytes at the cursor are the instruction's encoding, which decodes to the instruction. -/
theorem stepRunsTheDecodedInstruction : Obligations.StepRunsTheDecodedInstruction := by
  intro s rest i hwf
  refine ⟨fun hformat hreqs hst hbytes => ?_, fun hformat hreqs hst hbytes => ?_, fun hformat hreqs => ?_⟩
  · rcases header_or_marker_or_payload i with ⟨hdr, hi⟩ | ⟨m, rfl⟩ | ⟨raw, rfl⟩
    · rw [encode_of_header hi] at hbytes
      rw [step_of_header hreqs hst hbytes, decodeHeader_hdrEncode hi hwf]
    · cases hformat
    · cases hformat
  · rcases header_or_marker_or_payload i with ⟨hdr, hi⟩ | ⟨m, rfl⟩ | ⟨raw, rfl⟩
    · cases (format_of_header hi).symm.trans hformat
    · exact (step_serve hreqs).trans (commandStart_of_bytesAt (s := { s with reqs := rest }) hst hbytes)
    · cases hformat
  · have hdec := decodeOfEncodeIsIdentity s.cfg.layout i hwf
    rw [hformat] at hdec
    rw [step_serve hreqs]
    simp only [serve, applyUnit, hdec]

end Sys2Proof.Machine

/-! 10_state.md section 4 and 43_chain_sequencer.md section 4: where the cursor stands after a transaction, which bytes a yield
takes, runs of `STEP` over a chain of good blocks (R161, R162), and the obligations about the cursor, about `STEP` and about
the properties of a run. -/

namespace Sys2Proof.Machine

/-! ## The cursor (R23) -/

section
variable {s t : State} {r : Request} (h : Served s r t)
include h

theorem Served.pos_le (hr : r ≠ .reset) : s.pos ≤ t.pos := by
  cases h with
  | reset => exact absurd rfl hr
  | startRefused | stepRefused | ended | truncated | unit => exact Nat.le_refl s.pos
  | started | failed => exact Nat.le_add_right s.pos 4
  | yielded => simp only [State.yieldRec_pos]; omega

theorem Served.pos_of_started (hresp : t.resp = some .started) : t.pos = s.pos + 4 := by
  cases h with
  | started => rfl
  | reset | startRefused | stepRefused | ended | truncated | failed | yielded | unit => simp at hresp

theorem Served.pos_of_ended (hresp : t.resp = some .ended) : t.pos = s.pos := by
  cases h with
  | ended => rfl
  | reset | startRefused | stepRefused | started | truncated | failed | yielded | unit => simp at hresp

theorem Served.pos_of_refused (hresp : t.resp = some .refused) : t.pos = s.pos := by
  cases h with
  | startRefused | stepRefused => rfl
  | reset | ended | started | truncated | failed | yielded | unit => simp at hresp

end

/-! ## A good block depends on the configuration and on its own bytes -/

theorem span_eq_of_read_eq {m m' : Memory} {a n : Nat} (hsize : a + n ≤ m'.size)
    (hread : ∀ i, i < n → m.read (a + i) = m'.read (a + i)) : m.span a n = m'.span a n := by
  refine Vector.ext fun i hi => ?_
  have hsome := (hread i hi).trans (Memory.read_of_lt (by omega))
  rw [Memory.span_getElem, Memory.span_getElem, (Memory.read_some hsome).2]

section
variable {s : State} {m : Memory} {hdr : BlockHeader} (hgood : goodBlock s s.pos = some hdr)
  (hread : ∀ a, s.pos ≤ a → a < s.pos + 4 + hdr.len.toNat → m.read a = s.mem.read a)
include hgood hread

theorem goodBlock_with_mem (hsize : s.pos + 4 + hdr.len.toNat ≤ m.size) :
    goodBlock { s with mem := m } s.pos = some hdr := by
  obtain ⟨hhdr, hadm, hsize'⟩ := goodBlock_eq_some hgood
  have hspan : m.span s.pos 4 = s.mem.span s.pos 4 :=
    span_eq_of_read_eq (by omega) fun i hi => hread _ (by omega) (by omega)
  exact goodBlock_of (s := { s with mem := m }) (hhdr.trans (by rw [hspan])) hadm hsize

theorem afterBlock_with_mem (rest : List Request) :
    afterBlock { s with mem := m } hdr rest = { afterBlock s hdr rest with mem := m } := by
  obtain ⟨hhdr, hadm, hsize'⟩ := goodBlock_eq_some hgood
  have hclass : hdr.tclass = typeClassify hdr.tcode := hhdr ▸ rfl
  obtain ⟨hlen, -⟩ := (admitted_iff hclass s.cfg).mp hadm
  have hspan : hdr.tcode = 0#7 → m.span (s.pos + 4) 34 = s.mem.span (s.pos + 4) 34 := by
    intro hcode
    have h34 : hdr.len.toNat = 34 := by rw [hlen hcode]; rfl
    exact span_eq_of_read_eq (by omega) fun i hi => hread _ (by omega) (by omega)
  have hrec : blockRecord { s with mem := m, pos := s.pos + 4 } hdr = blockRecord { s with pos := s.pos + 4 } hdr := by
    rw [blockRecord_eq hclass, blockRecord_eq hclass]
    by_cases hcode : hdr.tcode = 0#7
    · simp only [hspan hcode]
    · simp only [hcode, if_false]
  simp only [afterBlock, hrec]
  rfl

end

theorem goodBlock_congr {s t : State} (hcfg : t.cfg = s.cfg) (hmem : t.mem = s.mem) (a : Nat) :
    goodBlock t a = goodBlock s a := by
  simp only [goodBlock, hcfg, hmem]

section
variable {s t : State} (hcfg : t.cfg = s.cfg) (hmem : t.mem = s.mem)
include hcfg hmem

theorem chainAt_congr (n a : Nat) : chainAt t n a = chainAt s n a := by
  induction n generalizing a with
  | zero => rfl
  | succ n ih => simp only [chainAt, goodBlock_congr hcfg hmem, ih]

theorem unflaggedAt_congr (n a : Nat) : unflaggedAt t n a = unflaggedAt s n a := by
  induction n generalizing a with
  | zero => simp only [unflaggedAt, hmem]
  | succ n ih => simp only [unflaggedAt, goodBlock_congr hcfg hmem, ih]

theorem headersAt_congr (n a : Nat) : headersAt t n a = headersAt s n a := by
  induction n generalizing a with
  | zero => rfl
  | succ n ih => simp only [headersAt, goodBlock_congr hcfg hmem, ih]

end

/-! ## Runs of `STEP` -/

@[simp] theorem afterBlock_st (s : State) (hdr : BlockHeader) (rest : List Request) :
    (afterBlock s hdr rest).st = afterYield hdr.last s.st := by simp [afterBlock]

@[simp] theorem afterBlock_pos (s : State) (hdr : BlockHeader) (rest : List Request) :
    (afterBlock s hdr rest).pos = s.pos + 4 + hdr.len.toNat := rfl

/-- What is left of a script of `STEP`s after the first. -/
def laterSteps (k : Nat) (rest : List Request) : List Request := List.replicate k .step ++ rest

theorem runs_of_done {k : Nat} {s : State} {rest : List Request} (hst : s.st = .done)
    (hreqs : s.reqs = laterSteps k rest) :
    (∃ t, runSteps k s = some t ∧ t.st = .done) ∧ responses k s = List.replicate k .ended := by
  cases k with
  | zero => exact ⟨⟨s, rfl, hst⟩, rfl⟩
  | succ k =>
    obtain ⟨hrun, hresp⟩ := doneAnswersEndForever k s rest hst hreqs
    exact ⟨⟨_, hrun, hst⟩, hresp⟩

section
variable {k : Nat} {s : State} {rest : List Request} (hreqs : s.reqs = laterSteps (k + 1) rest) (hst : s.st = .scanning)
include hreqs hst

/-- R146 in a run: a good block gives one record, and the run goes on behind it. -/
theorem responses_of_goodBlock {hdr : BlockHeader} (hgood : goodBlock s s.pos = some hdr) :
    responses (k + 1) s = .yielded (blockRecord { s with pos := s.pos + 4 } hdr) ::
      responses k (afterBlock s hdr (laterSteps k rest)) :=
  responses_succ_of_next (step_of_goodBlock hreqs hst hgood) k

/-- R178 in a run: where no header is left, the chain ends in a truncated read, and `DONE` answers the rest. -/
theorem responses_of_truncated (hlt : s.mem.size < s.pos + 4) :
    responses (k + 1) s = .failed .truncatedRead 4#32 :: List.replicate k .ended := by
  have hstep := (step_serve hreqs).trans
    (commandStep_truncated (s := { s with reqs := laterSteps k rest }) hst hlt)
  rw [responses_succ_of_next hstep, (runs_of_done rfl rfl).2]
  rfl

end

/-- A run of `k` steps yields the `n` good blocks at the cursor in stream order, and goes on with the answers `tail`. -/
def YieldsThen (s : State) (n k : Nat) (tail : List Response) : Prop :=
  ∃ recs : List Record, recs.length = n ∧ recs.map Record.hdr = headersAt s n s.pos ∧
    responses k s = recs.map Response.yielded ++ tail

theorem yieldsThen_zero {s : State} {k : Nat} {tail : List Response} (h : responses k s = tail) :
    YieldsThen s 0 k tail := ⟨[], rfl, rfl, h⟩

theorem yieldsThen_succ {s : State} {n k : Nat} {rest : List Request} {hdr : BlockHeader} {tail : List Response}
    (hreqs : s.reqs = laterSteps (k + 1) rest) (hst : s.st = .scanning) (hgood : goodBlock s s.pos = some hdr)
    (hlater : YieldsThen (afterBlock s hdr (laterSteps k rest)) n k tail) : YieldsThen s (n + 1) (k + 1) tail := by
  obtain ⟨recs, hlength, hhdrs, hresp⟩ := hlater
  refine ⟨blockRecord { s with pos := s.pos + 4 } hdr :: recs, by simp [hlength], ?_, ?_⟩
  · rw [List.map_cons, blockRecord_hdr, hhdrs, headersAt_congr (s := s) (t := afterBlock s hdr _) rfl rfl,
      afterBlock_pos]
    simp only [headersAt, hgood]
  · rw [responses_of_goodBlock hreqs hst hgood, hresp]
    rfl

/-- R161 items 1 and 4, by induction on the blocks: the last one is flagged and leads to `DONE`. -/
theorem yieldsThen_of_chainAt (n k : Nat) (s : State) (rest : List Request) (hst : s.st = .scanning)
    (hchain : chainAt s n s.pos = true) (hreqs : s.reqs = laterSteps (n + k) rest) :
    YieldsThen s n (n + k) (List.replicate k .ended) := by
  induction n generalizing s with
  | zero => simp [chainAt] at hchain
  | succ n ih =>
    rw [Nat.add_right_comm] at hreqs ⊢
    cases hgood : goodBlock s s.pos with
    | none => simp [chainAt, hgood] at hchain
    | some hdr =>
      simp only [chainAt, hgood] at hchain
      let next := afterBlock s hdr (laterSteps (n + k) rest)
      have hnext : next.st = afterYield hdr.last .scanning := by rw [afterBlock_st, hst]
      refine yieldsThen_succ hreqs hst hgood ?_
      cases hlast : hdr.last with
      | true =>
        obtain rfl : n = 0 := by simpa [hlast] using hchain
        rw [hlast] at hnext
        have hdone := (runs_of_done hnext rfl).2
        exact yieldsThen_zero (hdone.trans (by rw [Nat.zero_add]))
      | false =>
        rw [hlast] at hnext
        refine ih next hnext ?_ rfl
        rw [chainAt_congr (s := s) (t := next) rfl rfl]
        simpa [hlast, next] using hchain

/-- R161 item 2, by induction on the blocks: behind the last one the stream ends before another header. -/
theorem yieldsThen_of_unflaggedAt (n k : Nat) (s : State) (rest : List Request) (hst : s.st = .scanning)
    (hchain : unflaggedAt s n s.pos = true) (hreqs : s.reqs = laterSteps (n + 1 + k) rest) :
    YieldsThen s n (n + 1 + k) (.failed .truncatedRead 4#32 :: List.replicate k .ended) := by
  induction n generalizing s with
  | zero =>
    rw [Nat.add_right_comm, Nat.zero_add] at hreqs ⊢
    exact yieldsThen_zero (responses_of_truncated hreqs hst (by simpa [unflaggedAt] using hchain))
  | succ n ih =>
    rw [Nat.add_right_comm] at hreqs ⊢
    cases hgood : goodBlock s s.pos with
    | none => simp [unflaggedAt, hgood] at hchain
    | some hdr =>
      simp only [unflaggedAt, hgood, Bool.and_eq_true, Bool.not_eq_true'] at hchain
      obtain ⟨hlast, hchain⟩ := hchain
      let next := afterBlock s hdr (laterSteps (n + 1 + k) rest)
      refine yieldsThen_succ hreqs hst hgood (ih next ?_ ?_ rfl)
      · rw [afterBlock_st, hlast, hst]
        rfl
      · rw [unflaggedAt_congr (s := s) (t := next) rfl rfl]
        exact hchain

/-! ## Every run ends (R162) -/

/-- One `STEP` in `SCANNING`: the machine is `DONE` with at most one record if four bytes were left, or it yields a block
and stands at least four bytes further within the stream. -/
theorem step_of_scanning {s : State} {rest : List Request} (hreqs : s.reqs = .step :: rest) (hst : s.st = .scanning) :
    ∃ t, step s = .next t ∧ t.reqs = rest ∧ t.mem = s.mem ∧
      ((t.st = .done ∧ (t.resp.toList.filter Response.isYield).length ≤ (s.mem.size - s.pos) / 4) ∨
        (t.st = .scanning ∧ (t.resp.toList.filter Response.isYield).length ≤ 1 ∧ s.pos + 4 ≤ t.pos ∧
          t.pos ≤ s.mem.size)) := by
  obtain ⟨t, ht, -⟩ := commandStep_answers { s with reqs := rest }
  have hstep : step s = .next t := (step_serve hreqs).trans ht
  have hserved := served_of_commandStep ht
  obtain ⟨hmem, -, hrest⟩ := hserved.frame
  refine ⟨t, hstep, hrest, hmem, ?_⟩
  cases hserved with
  | stepRefused hst' | ended hst' => simp [hst] at hst'
  | truncated | failed => exact .inl ⟨rfl, Nat.zero_le _⟩
  | yielded _ hdr _ hpos =>
    simp only at hpos
    cases hlast : hdr.last with
    | true => exact .inl ⟨by simp [hlast], show 1 ≤ _ by omega⟩
    | false => exact .inr ⟨by simp [hlast, hst], le_refl 1, show s.pos + 4 ≤ s.pos + 4 + hdr.len.toNat by omega, hpos⟩

/-- R162, by induction on a bound of the blocks the rest of the stream has room for. -/
theorem run_terminates (k : Nat) (s : State) (rest : List Request) (hst : s.st = .scanning) (hpos : s.pos ≤ s.mem.size)
    (hk : (s.mem.size - s.pos) / 4 ≤ k) (hreqs : s.reqs = laterSteps (k + 1) rest) :
    (∃ t, runSteps (k + 1) s = some t ∧ t.st = .done) ∧
      ((responses (k + 1) s).filter Response.isYield).length ≤ (s.mem.size - s.pos) / 4 := by
  induction k generalizing s with
  | zero =>
    have hstep := (step_serve hreqs).trans
      (commandStep_truncated (s := { s with reqs := laterSteps 0 rest }) hst (by simp only; omega))
    rw [runSteps_succ_of_next hstep, responses_succ_of_next hstep]
    exact ⟨⟨_, rfl, rfl⟩, Nat.zero_le _⟩
  | succ k ih =>
    obtain ⟨t, hstep, hrest, hmem, hcases⟩ := step_of_scanning (rest := laterSteps (k + 1) rest) hreqs hst
    rw [runSteps_succ_of_next hstep, responses_succ_of_next hstep, List.filter_append, List.length_append]
    rcases hcases with ⟨hdone, hyields⟩ | ⟨hscan, hyields, hlo, hhi⟩
    · obtain ⟨hrun, hresp⟩ := runs_of_done hdone hrest
      have hnone : (List.replicate (k + 1) Response.ended).filter Response.isYield = [] := by simp [Response.isYield]
      rw [hresp, hnone]
      exact ⟨hrun, hyields⟩
    · obtain ⟨hrun, hbound⟩ := ih t hscan (by rw [hmem]; exact hhi) (by rw [hmem]; omega) hrest
      rw [hmem] at hbound
      exact ⟨hrun, by omega⟩

/-! ## The obligations -/

/-- Settles O23: a served transaction by its answer, a yield by the good block it takes. -/
theorem cursorNeverMovesBackward : Obligations.CursorNeverMovesBackward := by
  intro s t r rest hreqs hstep
  have hserved := served_of_serve (step_serve hreqs ▸ hstep)
  refine ⟨fun hr => hserved.pos_le hr, fun rec hresp => ?_, fun hresp => hserved.pos_of_started hresp,
    fun hresp => hserved.pos_of_ended hresp, fun hresp => hserved.pos_of_refused hresp⟩
  obtain ⟨-, -, -, rfl⟩ := goodBlock_of_yielded hreqs hstep hresp
  rfl

/-- Settles O24: the block that was yielded is a good block of the other stream too, with the same record. -/
theorem bytesPastTheBlockDoNotMatter : Obligations.BytesPastTheBlockDoNotMatter := by
  intro s t rest rec m hreqs hstep hresp hsize hread
  obtain ⟨-, hst, hgood, rfl⟩ := goodBlock_of_yielded hreqs hstep hresp
  have hgood' := goodBlock_with_mem hgood hread hsize
  exact (step_of_goodBlock (s := { s with mem := m }) hreqs hst hgood').trans
    (congrArg Host.Outcome.next (afterBlock_with_mem hgood hread rest))

/-- Settles O38: the block is good, and its record goes by its code. -/
theorem stepYieldsTheBlock : Obligations.StepYieldsTheBlock := by
  intro s rest h hdr hreqs hst hbytes hhdr hadm hsize
  have hclass : hdr.tclass = typeClassify hdr.tcode := hhdr ▸ rfl
  have hgood : goodBlock s s.pos = some hdr := goodBlock_of (by rw [span_of_bytesAt hbytes, hhdr]) hadm hsize
  refine ⟨blockRecord { s with pos := s.pos + 4 } hdr, ?_, blockRecord_hdr _ hdr, ?_⟩
  · rw [step_of_goodBlock hreqs hst hgood]
    simp [afterBlock, State.yieldRec, afterYield, hst]
  · rw [blockRecord_eq hclass]
    refine ⟨decide_eq_true_iff, ?_, fun p hcode hp => ?_, fun hcode => if_neg hcode⟩
    · by_cases hcode : hdr.tcode = 0#7 <;> simp [hcode]
    · simp only [hcode, if_true, span_of_bytesAt hp]

/-- Settles O41: a recorded failure means `DONE`, where every transaction but `RESET` only answers. -/
theorem recordedFailureStands : Obligations.RecordedFailureStands := by
  intro s t hinv herr hhead hstep
  obtain ⟨hst, -⟩ := hinv.failed_done herr
  rcases step_cases hstep with ⟨-, rfl⟩ | ⟨r, rest, hreqs, hserve⟩
  · exact ⟨rfl, rfl, rfl, rfl, rfl⟩
  · have hr : r ≠ .reset := by simpa [hreqs] using hhead
    obtain ⟨answer, rfl⟩ := (served_of_serve hserve).eq_respond_of_done hr hst
    exact ⟨rfl, rfl, rfl, rfl, rfl⟩

/-- Settles O49, by the induction on the blocks of a flagged chain. -/
theorem flaggedChainYieldsEveryBlock : Obligations.FlaggedChainYieldsEveryBlock := yieldsThen_of_chainAt

/-- Settles O50, by the induction on the blocks of an unflagged chain. -/
theorem unflaggedChainSurfacesTruncation : Obligations.UnflaggedChainSurfacesTruncation := yieldsThen_of_unflaggedAt

/-- Settles O51: the cursor stands within the stream (R32 item 5). -/
theorem everyRunTerminates : Obligations.EveryRunTerminates := fun s rest hinv hst hreqs =>
  run_terminates _ s rest hst hinv.pos_le (Nat.le_refl _) hreqs

end Sys2Proof.Machine

/-! 10_state.md sections 5 and 7: the fields of `STATUS` and `CFG` as bits of their words, the registers of a record, and the
obligations about the caller's view of the registers (R27, R24). -/

namespace Sys2Proof.Machine

/-! ## The fields of `STATUS` (R27) -/

section
variable (s : State)

theorem statusWord_st : s.statusWord.extractLsb' 0 2 = s.st.code := BitVec.extractLsb'_append_eq_right

theorem statusWord_err : s.statusWord.extractLsb' 2 3 = s.err.code :=
  (BitVec.extractLsb'_append_eq_of_le (by decide)).trans BitVec.extractLsb'_append_eq_right

theorem statusWord_outValid : s.statusWord.getLsbD 5 = s.out.isSome :=
  (getLsbD_append_add _ s.st.code 3).trans ((getLsbD_append_add _ s.err.code 0).trans (getLsbD_append_ofBool _ _))

theorem statusWord_zeros : s.statusWord.extractLsb' 6 26 = 0#26 :=
  (BitVec.extractLsb'_append_eq_of_le (by decide)).trans <|
    (BitVec.extractLsb'_append_eq_of_le (by decide)).trans BitVec.extractLsb'_append_eq_left

end

/-! ## The fields of `CFG` (R27) -/

section
variable (c : Config)

theorem cfgWord_layout : (cfgWord c).getLsbD 0 = (c.layout == .flacMsbFlag) :=
  getLsbD_append_ofBool _ _

theorem cfgWord_policy : (cfgWord c).getLsbD 1 = (c.policy == .skip) :=
  (getLsbD_append_add _ (BitVec.ofBool (c.layout == .flacMsbFlag)) 0).trans (getLsbD_append_ofBool _ _)

theorem cfgWord_zeros : (cfgWord c).extractLsb' 2 30 = 0#30 :=
  (BitVec.extractLsb'_append_eq_of_le (by decide)).trans BitVec.extractLsb'_append_eq_left

end

/-! ## The registers of a record in `OUT` (R24, R25) -/

section
variable {s : State} {rec : Record} (hout : s.out = some rec)
include hout

theorem outField_eq_some (f : Record → RegValue) : outField s f = some (f rec) := by
  rw [outField, hout]
  rfl

theorem outSi_eq_map (f : StreamInfo → RegValue) : outSi s f = rec.si.map f := by
  simp only [outSi, hout]

theorem outSi_eq_some {x : StreamInfo} (hx : rec.si = some x) (f : StreamInfo → RegValue) :
    outSi s f = some (f x) := by
  rw [outSi_eq_map hout, hx]
  rfl

theorem outSi_eq_none_of_opaque (hinv : s.Inv) (hkind : rec.kind = .opaqueRec) (f : StreamInfo → RegValue) :
    outSi s f = none := by
  have hsi := (hinv.out_ok rec hout).si_iff
  rw [hkind] at hsi
  rw [outSi_eq_map hout]
  cases hx : rec.si with
  | none => rfl
  | some x => simp [hx] at hsi

end

/-- A one-bit register shows its flag as a number. -/
theorem regField_ofBool (b : Bool) : regField (BitVec.ofBool b) = .field 1 b.toNat := by
  rw [regField, BitVec.toNat_ofBool]

/-! ## The obligations -/

/-- Settles O46: each field by its place in the word, the codes of `ST` and `ERR` by their constructors. -/
theorem statusRegistersShowTheirFields : Obligations.StatusRegistersShowTheirFields := by
  intro s
  refine ⟨?st, ?err, statusWord_outValid s, statusWord_zeros s,
    ⟨cfgWord_layout s.cfg, cfgWord_policy s.cfg, cfgWord_zeros s.cfg⟩, rfl, rfl, rfl, rfl, rfl⟩
  case st =>
    rw [statusWord_st]
    cases s.st <;> rfl
  case err =>
    rw [statusWord_err]
    rcases s.err with _ | ⟨_ | _ | _ | _⟩ <;> rfl

/-- Settles O52: a register is a field of the record, and the record's nine fields are there by its kind. -/
theorem outRegistersShowTheRecord : Obligations.OutRegistersShowTheRecord := by
  intro s rec hout
  refine ⟨?kind, ?last, outField_eq_some hout _, outField_eq_some hout _, outField_eq_some hout _, ?warn,
    fun x hx => ?si, fun hinv hkind => ?there, fun hinv hkind => ⟨?absent, ?absentMd5⟩⟩
  case kind =>
    refine (outField_eq_some hout _).trans ?_
    cases rec.kind <;> rfl
  case last => exact (outField_eq_some hout _).trans (congrArg some (regField_ofBool rec.hdr.last))
  case warn => exact (outField_eq_some hout _).trans (congrArg some (regField_ofBool rec.warn))
  case si =>
    have hshow := outSi_eq_some hout hx
    exact ⟨hshow _, hshow _, hshow _, hshow _, hshow _, hshow _, hshow _, hshow _, fun _ => hshow _⟩
  case there => exact Option.isSome_iff_exists.mp ((hinv.out_ok rec hout).si_iff.mpr hkind)
  case absent =>
    have hnone := outSi_eq_none_of_opaque hout hinv hkind
    simp only [List.forall_mem_cons]
    exact ⟨hnone _, hnone _, hnone _, hnone _, hnone _, hnone _, hnone _, hnone _, List.forall_mem_nil _⟩
  case absentMd5 => exact fun _ => outSi_eq_none_of_opaque hout hinv hkind _

end Sys2Proof.Machine
